-- ==== Sys2Proof/Word.lean ====
section
/-! DEFINITION. The words of the block: the number word `NUM` and the words of the two ports. -/

namespace Sys2Proof

/-- One word of the reference number format (R6, R8): thirty-two bits, read as an IEEE-754 binary32 value. It is a
structure and not a bare bit vector, so that the arithmetic of bit vectors cannot be applied to it by mistake. -/
structure NUM where
  bits : BitVec 32
  deriving DecidableEq, Repr

/-- A command word `CW` of the command port (R110, R111). -/
abbrev CommandWord := BitVec 64

/-- A response word `RW` of the command port (R110, R116). -/
abbrev ResponseWord := BitVec 64

/-- One frame of the audio port, `{right, left}` (R117). -/
abbrev Frame := BitVec 64

/-- The `IDX` field of a command word (R111). -/
abbrev Idx := BitVec 16

/-- The `DATA` field of a command word (R111). -/
abbrev Data := BitVec 32

end Sys2Proof
end

