-- ==== Sys2Proof/Syntax.lean ====
section
/-! DEFINITION. The operations of the command port (R113), one constructor per row of spec/opcode_table.json, in the
table's order. An operand is the field of the command word that carries it (R114, R115): `v` is `DATA` as a binary32
word, `n` is `DATA` as a count, `i` is `IDX` as a parameter index, `c` is `IDX` holding a channel in bit 0, `note` is
`IDX` holding a note number in bits 6:0, `vel` is `DATA` holding a velocity in bits 6:0. WellFormed.lean says when the
ignored bits of such a field are clear; the decoder clears them (log 22). -/

namespace Sys2Proof

inductive Instr where
  /-- `E0.RESET` (R191) -/
  | e0Reset
  /-- `E0.SET_SR v` (R153) -/
  | e0SetSr (v : Data)
  /-- `E0.SET_FREQ v` (R154) -/
  | e0SetFreq (v : Data)
  /-- `E0.SET_HARM v` (R155) -/
  | e0SetHarm (v : Data)
  /-- `E0.SET_TIMB v` (R156) -/
  | e0SetTimb (v : Data)
  /-- `E0.SET_MORPH v` (R157) -/
  | e0SetMorph (v : Data)
  /-- `E0.SET_LEVEL v` (R158) -/
  | e0SetLevel (v : Data)
  /-- `E0.PRODUCE` (R194) -/
  | e0Produce
  /-- `E1.RESET` (R201) -/
  | e1Reset
  /-- `E1.SET_SR v` (R153) -/
  | e1SetSr (v : Data)
  /-- `E1.SET_FREQ v` (R154) -/
  | e1SetFreq (v : Data)
  /-- `E1.SET_HARM v` (R155) -/
  | e1SetHarm (v : Data)
  /-- `E1.SET_TIMB v` (R156) -/
  | e1SetTimb (v : Data)
  /-- `E1.SET_MORPH v` (R157) -/
  | e1SetMorph (v : Data)
  /-- `E1.SET_LEVEL v` (R158) -/
  | e1SetLevel (v : Data)
  /-- `E1.PRODUCE` (R204) -/
  | e1Produce
  /-- `E2.RESET` (R211) -/
  | e2Reset
  /-- `E2.SET_SR v` (R153) -/
  | e2SetSr (v : Data)
  /-- `E2.SET_FREQ v` (R154) -/
  | e2SetFreq (v : Data)
  /-- `E2.SET_HARM v` (R155) -/
  | e2SetHarm (v : Data)
  /-- `E2.SET_TIMB v` (R156) -/
  | e2SetTimb (v : Data)
  /-- `E2.SET_MORPH v` (R157) -/
  | e2SetMorph (v : Data)
  /-- `E2.SET_LEVEL v` (R158) -/
  | e2SetLevel (v : Data)
  /-- `E2.PRODUCE` (R214) -/
  | e2Produce
  /-- `E3.RESET` (R221) -/
  | e3Reset
  /-- `E3.SET_SR v` (R153) -/
  | e3SetSr (v : Data)
  /-- `E3.SET_FREQ v` (R154) -/
  | e3SetFreq (v : Data)
  /-- `E3.SET_HARM v` (R155) -/
  | e3SetHarm (v : Data)
  /-- `E3.SET_TIMB v` (R156) -/
  | e3SetTimb (v : Data)
  /-- `E3.SET_MORPH v` (R157) -/
  | e3SetMorph (v : Data)
  /-- `E3.SET_LEVEL v` (R158) -/
  | e3SetLevel (v : Data)
  /-- `E3.PRODUCE` (R224) -/
  | e3Produce
  /-- `E4.RESET` (R231) -/
  | e4Reset
  /-- `E4.SET_SR v` (R153) -/
  | e4SetSr (v : Data)
  /-- `E4.SET_FREQ v` (R154) -/
  | e4SetFreq (v : Data)
  /-- `E4.SET_HARM v` (R155) -/
  | e4SetHarm (v : Data)
  /-- `E4.SET_TIMB v` (R156) -/
  | e4SetTimb (v : Data)
  /-- `E4.SET_MORPH v` (R157) -/
  | e4SetMorph (v : Data)
  /-- `E4.SET_LEVEL v` (R158) -/
  | e4SetLevel (v : Data)
  /-- `E4.PRODUCE` (R234) -/
  | e4Produce
  /-- `E5.RESET` (R241) -/
  | e5Reset
  /-- `E5.SET_SR v` (R153) -/
  | e5SetSr (v : Data)
  /-- `E5.SET_FREQ v` (R154) -/
  | e5SetFreq (v : Data)
  /-- `E5.SET_HARM v` (R155) -/
  | e5SetHarm (v : Data)
  /-- `E5.SET_TIMB v` (R156) -/
  | e5SetTimb (v : Data)
  /-- `E5.SET_MORPH v` (R157) -/
  | e5SetMorph (v : Data)
  /-- `E5.SET_LEVEL v` (R158) -/
  | e5SetLevel (v : Data)
  /-- `E5.PRODUCE` (R245) -/
  | e5Produce
  /-- `E6.RESET` (R281) -/
  | e6Reset
  /-- `E6.SET_SR v` (R153) -/
  | e6SetSr (v : Data)
  /-- `E6.SET_FREQ v` (R154) -/
  | e6SetFreq (v : Data)
  /-- `E6.SET_HARM v` (R155) -/
  | e6SetHarm (v : Data)
  /-- `E6.SET_TIMB v` (R156) -/
  | e6SetTimb (v : Data)
  /-- `E6.SET_MORPH v` (R157) -/
  | e6SetMorph (v : Data)
  /-- `E6.SET_LEVEL v` (R158) -/
  | e6SetLevel (v : Data)
  /-- `E6.PRODUCE` (R284) -/
  | e6Produce
  /-- `E7.RESET` (R291) -/
  | e7Reset
  /-- `E7.SET_SR v` (R153) -/
  | e7SetSr (v : Data)
  /-- `E7.SET_FREQ v` (R154) -/
  | e7SetFreq (v : Data)
  /-- `E7.SET_HARM v` (R155) -/
  | e7SetHarm (v : Data)
  /-- `E7.SET_TIMB v` (R156) -/
  | e7SetTimb (v : Data)
  /-- `E7.SET_MORPH v` (R157) -/
  | e7SetMorph (v : Data)
  /-- `E7.SET_LEVEL v` (R158) -/
  | e7SetLevel (v : Data)
  /-- `E7.PRODUCE` (R296) -/
  | e7Produce
  /-- `E8.RESET` (R251) -/
  | e8Reset
  /-- `E8.SET_SR v` (R153) -/
  | e8SetSr (v : Data)
  /-- `E8.SET_FREQ v` (R154) -/
  | e8SetFreq (v : Data)
  /-- `E8.SET_HARM v` (R155) -/
  | e8SetHarm (v : Data)
  /-- `E8.SET_TIMB v` (R156) -/
  | e8SetTimb (v : Data)
  /-- `E8.SET_MORPH v` (R157) -/
  | e8SetMorph (v : Data)
  /-- `E8.SET_LEVEL v` (R158) -/
  | e8SetLevel (v : Data)
  /-- `E8.PRODUCE` (R254) -/
  | e8Produce
  /-- `E9.RESET` (R261) -/
  | e9Reset
  /-- `E9.SET_SR v` (R153) -/
  | e9SetSr (v : Data)
  /-- `E9.SET_FREQ v` (R154) -/
  | e9SetFreq (v : Data)
  /-- `E9.SET_HARM v` (R155) -/
  | e9SetHarm (v : Data)
  /-- `E9.SET_TIMB v` (R156) -/
  | e9SetTimb (v : Data)
  /-- `E9.SET_MORPH v` (R157) -/
  | e9SetMorph (v : Data)
  /-- `E9.SET_LEVEL v` (R158) -/
  | e9SetLevel (v : Data)
  /-- `E9.PRODUCE` (R265) -/
  | e9Produce
  /-- `E10.RESET` (R311) -/
  | e10Reset
  /-- `E10.SET_SR v` (R153) -/
  | e10SetSr (v : Data)
  /-- `E10.SET_FREQ v` (R154) -/
  | e10SetFreq (v : Data)
  /-- `E10.SET_HARM v` (R155) -/
  | e10SetHarm (v : Data)
  /-- `E10.SET_TIMB v` (R156) -/
  | e10SetTimb (v : Data)
  /-- `E10.SET_MORPH v` (R157) -/
  | e10SetMorph (v : Data)
  /-- `E10.SET_LEVEL v` (R158) -/
  | e10SetLevel (v : Data)
  /-- `E10.PRODUCE` (R316) -/
  | e10Produce
  /-- `E11.RESET` (R331) -/
  | e11Reset
  /-- `E11.SET_SR v` (R153) -/
  | e11SetSr (v : Data)
  /-- `E11.SET_FREQ v` (R154) -/
  | e11SetFreq (v : Data)
  /-- `E11.SET_HARM v` (R155) -/
  | e11SetHarm (v : Data)
  /-- `E11.SET_TIMB v` (R156) -/
  | e11SetTimb (v : Data)
  /-- `E11.SET_MORPH v` (R157) -/
  | e11SetMorph (v : Data)
  /-- `E11.SET_LEVEL v` (R158) -/
  | e11SetLevel (v : Data)
  /-- `E11.PRODUCE` (R335) -/
  | e11Produce
  /-- `ADSR.RESET` (R359) -/
  | adsrReset
  /-- `ADSR.SET_SR v` (R351) -/
  | adsrSetSr (v : Data)
  /-- `ADSR.SET_ATTACK v` (R352) -/
  | adsrSetAttack (v : Data)
  /-- `ADSR.SET_DECAY v` (R353) -/
  | adsrSetDecay (v : Data)
  /-- `ADSR.SET_SUSTAIN v` (R354) -/
  | adsrSetSustain (v : Data)
  /-- `ADSR.SET_RELEASE v` (R355) -/
  | adsrSetRelease (v : Data)
  /-- `ADSR.GATE_ON` (R356) -/
  | adsrGateOn
  /-- `ADSR.GATE_OFF` (R357) -/
  | adsrGateOff
  /-- `ADSR.PROCESS` (R358) -/
  | adsrProcess
  /-- `AD.RESET` (R372) -/
  | adReset
  /-- `AD.SET_SR v` (R366) -/
  | adSetSr (v : Data)
  /-- `AD.SET_ATTACK v` (R367) -/
  | adSetAttack (v : Data)
  /-- `AD.SET_DECAY v` (R368) -/
  | adSetDecay (v : Data)
  /-- `AD.GATE_ON` (R369) -/
  | adGateOn
  /-- `AD.GATE_OFF` (R370) -/
  | adGateOff
  /-- `AD.PROCESS` (R371) -/
  | adProcess
  /-- `LFO.RESET` (R387) -/
  | lfoReset
  /-- `LFO.SET_SR v` (R382) -/
  | lfoSetSr (v : Data)
  /-- `LFO.SET_FREQ v` (R383) -/
  | lfoSetFreq (v : Data)
  /-- `LFO.PROCESS` (R384) -/
  | lfoProcess
  /-- `LFO.SET_WAVE v` (R385) -/
  | lfoSetWave (v : Data)
  /-- `LFO.SET_VAR v` (R386) -/
  | lfoSetVar (v : Data)
  /-- `FLT.RESET` (R409) -/
  | fltReset
  /-- `FLT.SET_SR v` (R404) -/
  | fltSetSr (v : Data)
  /-- `FLT.PROCESS c, v` (R408) -/
  | fltProcess (c : Idx) (v : Data)
  /-- `FLT.SET_CUTOFF v` (R405) -/
  | fltSetCutoff (v : Data)
  /-- `FLT.SET_RES v` (R406) -/
  | fltSetRes (v : Data)
  /-- `FLT.SET_WET v` (R407) -/
  | fltSetWet (v : Data)
  /-- `DLY.RESET` (R426) -/
  | dlyReset
  /-- `DLY.PROCESS c, v` (R425) -/
  | dlyProcess (c : Idx) (v : Data)
  /-- `DLY.SET_AMOUNT v` (R423) -/
  | dlySetAmount (v : Data)
  /-- `CHO.RESET` (R448) -/
  | choReset
  /-- `CHO.PROCESS c, v` (R447) -/
  | choProcess (c : Idx) (v : Data)
  /-- `CHO.SET_AMOUNT v` (R443) -/
  | choSetAmount (v : Data)
  /-- `REV.RESET` (R467) -/
  | revReset
  /-- `REV.PROCESS c, v` (R466) -/
  | revProcess (c : Idx) (v : Data)
  /-- `REV.SET_AMOUNT v` (R463) -/
  | revSetAmount (v : Data)
  /-- `PIPE.FULL_RESET` (R489) -/
  | pipeFullReset
  /-- `PIPE.PARAM_SET i, v` (R485) -/
  | pipeParamSet (i : Idx) (v : Data)
  /-- `PIPE.PARAM_GET i` (R486) -/
  | pipeParamGet (i : Idx)
  /-- `PIPE.NOTE_ON note, vel` (R487) -/
  | pipeNoteOn (note : Idx) (vel : Data)
  /-- `PIPE.NOTE_OFF note` (R488) -/
  | pipeNoteOff (note : Idx)
  /-- `PIPE.PROCESS_BLOCK n` (R496) -/
  | pipeProcessBlock (n : Data)
  deriving DecidableEq, Repr

end Sys2Proof
end

