-- ==== Sys2Proof/WellFormed.lean ====
section
/-! DEFINITION. Which operations are well formed: those whose operand fields hold a channel, a note number or a velocity
and nothing else (R115). Every value of the other operands is legal (R114, R118). -/

namespace Sys2Proof

/-- A channel field: 0 (left) or 1 (right) (R115). -/
def channelOk (c : Idx) : Bool := Nat.ble c.toNat 1

/-- A note number field: 0 to 127 (R115). -/
def noteOk (note : Idx) : Bool := Nat.ble note.toNat 127

/-- A velocity field: 0 to 127 (R114). -/
def velocityOk (vel : Data) : Bool := Nat.ble vel.toNat 127

def Instr.wellFormed : Instr → Bool
  | .e0Reset => true
  | .e0SetSr _ => true
  | .e0SetFreq _ => true
  | .e0SetHarm _ => true
  | .e0SetTimb _ => true
  | .e0SetMorph _ => true
  | .e0SetLevel _ => true
  | .e0Produce => true
  | .e1Reset => true
  | .e1SetSr _ => true
  | .e1SetFreq _ => true
  | .e1SetHarm _ => true
  | .e1SetTimb _ => true
  | .e1SetMorph _ => true
  | .e1SetLevel _ => true
  | .e1Produce => true
  | .e2Reset => true
  | .e2SetSr _ => true
  | .e2SetFreq _ => true
  | .e2SetHarm _ => true
  | .e2SetTimb _ => true
  | .e2SetMorph _ => true
  | .e2SetLevel _ => true
  | .e2Produce => true
  | .e3Reset => true
  | .e3SetSr _ => true
  | .e3SetFreq _ => true
  | .e3SetHarm _ => true
  | .e3SetTimb _ => true
  | .e3SetMorph _ => true
  | .e3SetLevel _ => true
  | .e3Produce => true
  | .e4Reset => true
  | .e4SetSr _ => true
  | .e4SetFreq _ => true
  | .e4SetHarm _ => true
  | .e4SetTimb _ => true
  | .e4SetMorph _ => true
  | .e4SetLevel _ => true
  | .e4Produce => true
  | .e5Reset => true
  | .e5SetSr _ => true
  | .e5SetFreq _ => true
  | .e5SetHarm _ => true
  | .e5SetTimb _ => true
  | .e5SetMorph _ => true
  | .e5SetLevel _ => true
  | .e5Produce => true
  | .e6Reset => true
  | .e6SetSr _ => true
  | .e6SetFreq _ => true
  | .e6SetHarm _ => true
  | .e6SetTimb _ => true
  | .e6SetMorph _ => true
  | .e6SetLevel _ => true
  | .e6Produce => true
  | .e7Reset => true
  | .e7SetSr _ => true
  | .e7SetFreq _ => true
  | .e7SetHarm _ => true
  | .e7SetTimb _ => true
  | .e7SetMorph _ => true
  | .e7SetLevel _ => true
  | .e7Produce => true
  | .e8Reset => true
  | .e8SetSr _ => true
  | .e8SetFreq _ => true
  | .e8SetHarm _ => true
  | .e8SetTimb _ => true
  | .e8SetMorph _ => true
  | .e8SetLevel _ => true
  | .e8Produce => true
  | .e9Reset => true
  | .e9SetSr _ => true
  | .e9SetFreq _ => true
  | .e9SetHarm _ => true
  | .e9SetTimb _ => true
  | .e9SetMorph _ => true
  | .e9SetLevel _ => true
  | .e9Produce => true
  | .e10Reset => true
  | .e10SetSr _ => true
  | .e10SetFreq _ => true
  | .e10SetHarm _ => true
  | .e10SetTimb _ => true
  | .e10SetMorph _ => true
  | .e10SetLevel _ => true
  | .e10Produce => true
  | .e11Reset => true
  | .e11SetSr _ => true
  | .e11SetFreq _ => true
  | .e11SetHarm _ => true
  | .e11SetTimb _ => true
  | .e11SetMorph _ => true
  | .e11SetLevel _ => true
  | .e11Produce => true
  | .adsrReset => true
  | .adsrSetSr _ => true
  | .adsrSetAttack _ => true
  | .adsrSetDecay _ => true
  | .adsrSetSustain _ => true
  | .adsrSetRelease _ => true
  | .adsrGateOn => true
  | .adsrGateOff => true
  | .adsrProcess => true
  | .adReset => true
  | .adSetSr _ => true
  | .adSetAttack _ => true
  | .adSetDecay _ => true
  | .adGateOn => true
  | .adGateOff => true
  | .adProcess => true
  | .lfoReset => true
  | .lfoSetSr _ => true
  | .lfoSetFreq _ => true
  | .lfoProcess => true
  | .lfoSetWave _ => true
  | .lfoSetVar _ => true
  | .fltReset => true
  | .fltSetSr _ => true
  | .fltProcess c _ => channelOk c
  | .fltSetCutoff _ => true
  | .fltSetRes _ => true
  | .fltSetWet _ => true
  | .dlyReset => true
  | .dlyProcess c _ => channelOk c
  | .dlySetAmount _ => true
  | .choReset => true
  | .choProcess c _ => channelOk c
  | .choSetAmount _ => true
  | .revReset => true
  | .revProcess c _ => channelOk c
  | .revSetAmount _ => true
  | .pipeFullReset => true
  | .pipeParamSet _ _ => true
  | .pipeParamGet _ => true
  | .pipeNoteOn note vel => noteOk note && velocityOk vel
  | .pipeNoteOff note => noteOk note
  | .pipeProcessBlock _ => true

end Sys2Proof
end

