-- ==== Sys2Proof/Decode.lean ====
section
/-! DEFINITION. The decoder of command words (R111 to R115, R118) and, after it, the encoder. -/

namespace Sys2Proof

/-! ## Fields -/

/-- `CW[63:56]`, the unit code (R111). -/
def unitField (cw : CommandWord) : BitVec 8 := cw.extractLsb' 56 8

/-- `CW[55:48]`, the operation code (R111). -/
def opField (cw : CommandWord) : BitVec 8 := cw.extractLsb' 48 8

/-- `CW[47:32]`, the small integer operand (R111). -/
def idxField (cw : CommandWord) : Idx := cw.extractLsb' 32 16

/-- `CW[31:0]`, the 32-bit operand (R111). -/
def dataField (cw : CommandWord) : Data := cw.extractLsb' 0 32

/-- The command word with the four given fields (R111). -/
def commandWord (unit op : BitVec 8) (idx : Idx) (data : Data) : CommandWord := unit ++ op ++ idx ++ data

/-- A 64-bit word from its high and its low half: the layout of a response word (R116) and of a frame (R117). -/
def wordPair (hi lo : BitVec 32) : BitVec 64 := hi ++ lo

/-! ## Decoder -/

/-- Why a command word is no operation (R118). The step answers both with `RW = 0` and no change of state. -/
inductive DecodeError where
  /-- The `UNIT` code is not one of R112. -/
  | reservedUnit
  /-- The unit exists and has no operation with this `OP` code (R113). -/
  | reservedOp
  deriving DecidableEq, Repr

/-- `IDX[0]`, the other bits cleared (R115). -/
def channelField (idx : Idx) : Idx := idx &&& 0x0001#16

/-- `IDX[6:0]`, the other bits cleared (R115). -/
def noteField (idx : Idx) : Idx := idx &&& 0x007F#16

/-- `DATA[6:0]`, the other bits cleared (R114). -/
def velocityField (data : Data) : Data := data &&& 0x0000007F#32

/-- One row of the operation map (R113). -/
structure OpRow where
  unit : BitVec 8
  op : BitVec 8
  build : Idx → Data → Instr

/-- The rows of E0 (R113). -/
def e0Rows : List OpRow :=
  [⟨0x00#8, 0x00#8, fun _ _ => .e0Reset⟩,
   ⟨0x00#8, 0x01#8, fun _ data => .e0SetSr data⟩,
   ⟨0x00#8, 0x02#8, fun _ data => .e0SetFreq data⟩,
   ⟨0x00#8, 0x03#8, fun _ data => .e0SetHarm data⟩,
   ⟨0x00#8, 0x04#8, fun _ data => .e0SetTimb data⟩,
   ⟨0x00#8, 0x05#8, fun _ data => .e0SetMorph data⟩,
   ⟨0x00#8, 0x06#8, fun _ data => .e0SetLevel data⟩,
   ⟨0x00#8, 0x07#8, fun _ _ => .e0Produce⟩]

/-- The rows of E1 (R113). -/
def e1Rows : List OpRow :=
  [⟨0x01#8, 0x00#8, fun _ _ => .e1Reset⟩,
   ⟨0x01#8, 0x01#8, fun _ data => .e1SetSr data⟩,
   ⟨0x01#8, 0x02#8, fun _ data => .e1SetFreq data⟩,
   ⟨0x01#8, 0x03#8, fun _ data => .e1SetHarm data⟩,
   ⟨0x01#8, 0x04#8, fun _ data => .e1SetTimb data⟩,
   ⟨0x01#8, 0x05#8, fun _ data => .e1SetMorph data⟩,
   ⟨0x01#8, 0x06#8, fun _ data => .e1SetLevel data⟩,
   ⟨0x01#8, 0x07#8, fun _ _ => .e1Produce⟩]

/-- The rows of E2 (R113). -/
def e2Rows : List OpRow :=
  [⟨0x02#8, 0x00#8, fun _ _ => .e2Reset⟩,
   ⟨0x02#8, 0x01#8, fun _ data => .e2SetSr data⟩,
   ⟨0x02#8, 0x02#8, fun _ data => .e2SetFreq data⟩,
   ⟨0x02#8, 0x03#8, fun _ data => .e2SetHarm data⟩,
   ⟨0x02#8, 0x04#8, fun _ data => .e2SetTimb data⟩,
   ⟨0x02#8, 0x05#8, fun _ data => .e2SetMorph data⟩,
   ⟨0x02#8, 0x06#8, fun _ data => .e2SetLevel data⟩,
   ⟨0x02#8, 0x07#8, fun _ _ => .e2Produce⟩]

/-- The rows of E3 (R113). -/
def e3Rows : List OpRow :=
  [⟨0x03#8, 0x00#8, fun _ _ => .e3Reset⟩,
   ⟨0x03#8, 0x01#8, fun _ data => .e3SetSr data⟩,
   ⟨0x03#8, 0x02#8, fun _ data => .e3SetFreq data⟩,
   ⟨0x03#8, 0x03#8, fun _ data => .e3SetHarm data⟩,
   ⟨0x03#8, 0x04#8, fun _ data => .e3SetTimb data⟩,
   ⟨0x03#8, 0x05#8, fun _ data => .e3SetMorph data⟩,
   ⟨0x03#8, 0x06#8, fun _ data => .e3SetLevel data⟩,
   ⟨0x03#8, 0x07#8, fun _ _ => .e3Produce⟩]

/-- The rows of E4 (R113). -/
def e4Rows : List OpRow :=
  [⟨0x04#8, 0x00#8, fun _ _ => .e4Reset⟩,
   ⟨0x04#8, 0x01#8, fun _ data => .e4SetSr data⟩,
   ⟨0x04#8, 0x02#8, fun _ data => .e4SetFreq data⟩,
   ⟨0x04#8, 0x03#8, fun _ data => .e4SetHarm data⟩,
   ⟨0x04#8, 0x04#8, fun _ data => .e4SetTimb data⟩,
   ⟨0x04#8, 0x05#8, fun _ data => .e4SetMorph data⟩,
   ⟨0x04#8, 0x06#8, fun _ data => .e4SetLevel data⟩,
   ⟨0x04#8, 0x07#8, fun _ _ => .e4Produce⟩]

/-- The rows of E5 (R113). -/
def e5Rows : List OpRow :=
  [⟨0x05#8, 0x00#8, fun _ _ => .e5Reset⟩,
   ⟨0x05#8, 0x01#8, fun _ data => .e5SetSr data⟩,
   ⟨0x05#8, 0x02#8, fun _ data => .e5SetFreq data⟩,
   ⟨0x05#8, 0x03#8, fun _ data => .e5SetHarm data⟩,
   ⟨0x05#8, 0x04#8, fun _ data => .e5SetTimb data⟩,
   ⟨0x05#8, 0x05#8, fun _ data => .e5SetMorph data⟩,
   ⟨0x05#8, 0x06#8, fun _ data => .e5SetLevel data⟩,
   ⟨0x05#8, 0x07#8, fun _ _ => .e5Produce⟩]

/-- The rows of E6 (R113). -/
def e6Rows : List OpRow :=
  [⟨0x06#8, 0x00#8, fun _ _ => .e6Reset⟩,
   ⟨0x06#8, 0x01#8, fun _ data => .e6SetSr data⟩,
   ⟨0x06#8, 0x02#8, fun _ data => .e6SetFreq data⟩,
   ⟨0x06#8, 0x03#8, fun _ data => .e6SetHarm data⟩,
   ⟨0x06#8, 0x04#8, fun _ data => .e6SetTimb data⟩,
   ⟨0x06#8, 0x05#8, fun _ data => .e6SetMorph data⟩,
   ⟨0x06#8, 0x06#8, fun _ data => .e6SetLevel data⟩,
   ⟨0x06#8, 0x07#8, fun _ _ => .e6Produce⟩]

/-- The rows of E7 (R113). -/
def e7Rows : List OpRow :=
  [⟨0x07#8, 0x00#8, fun _ _ => .e7Reset⟩,
   ⟨0x07#8, 0x01#8, fun _ data => .e7SetSr data⟩,
   ⟨0x07#8, 0x02#8, fun _ data => .e7SetFreq data⟩,
   ⟨0x07#8, 0x03#8, fun _ data => .e7SetHarm data⟩,
   ⟨0x07#8, 0x04#8, fun _ data => .e7SetTimb data⟩,
   ⟨0x07#8, 0x05#8, fun _ data => .e7SetMorph data⟩,
   ⟨0x07#8, 0x06#8, fun _ data => .e7SetLevel data⟩,
   ⟨0x07#8, 0x07#8, fun _ _ => .e7Produce⟩]

/-- The rows of E8 (R113). -/
def e8Rows : List OpRow :=
  [⟨0x08#8, 0x00#8, fun _ _ => .e8Reset⟩,
   ⟨0x08#8, 0x01#8, fun _ data => .e8SetSr data⟩,
   ⟨0x08#8, 0x02#8, fun _ data => .e8SetFreq data⟩,
   ⟨0x08#8, 0x03#8, fun _ data => .e8SetHarm data⟩,
   ⟨0x08#8, 0x04#8, fun _ data => .e8SetTimb data⟩,
   ⟨0x08#8, 0x05#8, fun _ data => .e8SetMorph data⟩,
   ⟨0x08#8, 0x06#8, fun _ data => .e8SetLevel data⟩,
   ⟨0x08#8, 0x07#8, fun _ _ => .e8Produce⟩]

/-- The rows of E9 (R113). -/
def e9Rows : List OpRow :=
  [⟨0x09#8, 0x00#8, fun _ _ => .e9Reset⟩,
   ⟨0x09#8, 0x01#8, fun _ data => .e9SetSr data⟩,
   ⟨0x09#8, 0x02#8, fun _ data => .e9SetFreq data⟩,
   ⟨0x09#8, 0x03#8, fun _ data => .e9SetHarm data⟩,
   ⟨0x09#8, 0x04#8, fun _ data => .e9SetTimb data⟩,
   ⟨0x09#8, 0x05#8, fun _ data => .e9SetMorph data⟩,
   ⟨0x09#8, 0x06#8, fun _ data => .e9SetLevel data⟩,
   ⟨0x09#8, 0x07#8, fun _ _ => .e9Produce⟩]

/-- The rows of E10 (R113). -/
def e10Rows : List OpRow :=
  [⟨0x0A#8, 0x00#8, fun _ _ => .e10Reset⟩,
   ⟨0x0A#8, 0x01#8, fun _ data => .e10SetSr data⟩,
   ⟨0x0A#8, 0x02#8, fun _ data => .e10SetFreq data⟩,
   ⟨0x0A#8, 0x03#8, fun _ data => .e10SetHarm data⟩,
   ⟨0x0A#8, 0x04#8, fun _ data => .e10SetTimb data⟩,
   ⟨0x0A#8, 0x05#8, fun _ data => .e10SetMorph data⟩,
   ⟨0x0A#8, 0x06#8, fun _ data => .e10SetLevel data⟩,
   ⟨0x0A#8, 0x07#8, fun _ _ => .e10Produce⟩]

/-- The rows of E11 (R113). -/
def e11Rows : List OpRow :=
  [⟨0x0B#8, 0x00#8, fun _ _ => .e11Reset⟩,
   ⟨0x0B#8, 0x01#8, fun _ data => .e11SetSr data⟩,
   ⟨0x0B#8, 0x02#8, fun _ data => .e11SetFreq data⟩,
   ⟨0x0B#8, 0x03#8, fun _ data => .e11SetHarm data⟩,
   ⟨0x0B#8, 0x04#8, fun _ data => .e11SetTimb data⟩,
   ⟨0x0B#8, 0x05#8, fun _ data => .e11SetMorph data⟩,
   ⟨0x0B#8, 0x06#8, fun _ data => .e11SetLevel data⟩,
   ⟨0x0B#8, 0x07#8, fun _ _ => .e11Produce⟩]

/-- The rows of ADSR (R113). -/
def adsrRows : List OpRow :=
  [⟨0x10#8, 0x00#8, fun _ _ => .adsrReset⟩,
   ⟨0x10#8, 0x01#8, fun _ data => .adsrSetSr data⟩,
   ⟨0x10#8, 0x08#8, fun _ data => .adsrSetAttack data⟩,
   ⟨0x10#8, 0x09#8, fun _ data => .adsrSetDecay data⟩,
   ⟨0x10#8, 0x0A#8, fun _ data => .adsrSetSustain data⟩,
   ⟨0x10#8, 0x0B#8, fun _ data => .adsrSetRelease data⟩,
   ⟨0x10#8, 0x0C#8, fun _ _ => .adsrGateOn⟩,
   ⟨0x10#8, 0x0D#8, fun _ _ => .adsrGateOff⟩,
   ⟨0x10#8, 0x0E#8, fun _ _ => .adsrProcess⟩]

/-- The rows of AD (R113). -/
def adRows : List OpRow :=
  [⟨0x11#8, 0x00#8, fun _ _ => .adReset⟩,
   ⟨0x11#8, 0x01#8, fun _ data => .adSetSr data⟩,
   ⟨0x11#8, 0x08#8, fun _ data => .adSetAttack data⟩,
   ⟨0x11#8, 0x09#8, fun _ data => .adSetDecay data⟩,
   ⟨0x11#8, 0x0C#8, fun _ _ => .adGateOn⟩,
   ⟨0x11#8, 0x0D#8, fun _ _ => .adGateOff⟩,
   ⟨0x11#8, 0x0E#8, fun _ _ => .adProcess⟩]

/-- The rows of LFO (R113). -/
def lfoRows : List OpRow :=
  [⟨0x12#8, 0x00#8, fun _ _ => .lfoReset⟩,
   ⟨0x12#8, 0x01#8, fun _ data => .lfoSetSr data⟩,
   ⟨0x12#8, 0x02#8, fun _ data => .lfoSetFreq data⟩,
   ⟨0x12#8, 0x0E#8, fun _ _ => .lfoProcess⟩,
   ⟨0x12#8, 0x10#8, fun _ data => .lfoSetWave data⟩,
   ⟨0x12#8, 0x11#8, fun _ data => .lfoSetVar data⟩]

/-- The rows of FLT (R113). -/
def fltRows : List OpRow :=
  [⟨0x18#8, 0x00#8, fun _ _ => .fltReset⟩,
   ⟨0x18#8, 0x01#8, fun _ data => .fltSetSr data⟩,
   ⟨0x18#8, 0x0E#8, fun idx data => .fltProcess (channelField idx) data⟩,
   ⟨0x18#8, 0x12#8, fun _ data => .fltSetCutoff data⟩,
   ⟨0x18#8, 0x13#8, fun _ data => .fltSetRes data⟩,
   ⟨0x18#8, 0x14#8, fun _ data => .fltSetWet data⟩]

/-- The rows of DLY (R113). -/
def dlyRows : List OpRow :=
  [⟨0x20#8, 0x00#8, fun _ _ => .dlyReset⟩,
   ⟨0x20#8, 0x0E#8, fun idx data => .dlyProcess (channelField idx) data⟩,
   ⟨0x20#8, 0x15#8, fun _ data => .dlySetAmount data⟩]

/-- The rows of CHO (R113). -/
def choRows : List OpRow :=
  [⟨0x21#8, 0x00#8, fun _ _ => .choReset⟩,
   ⟨0x21#8, 0x0E#8, fun idx data => .choProcess (channelField idx) data⟩,
   ⟨0x21#8, 0x15#8, fun _ data => .choSetAmount data⟩]

/-- The rows of REV (R113). -/
def revRows : List OpRow :=
  [⟨0x22#8, 0x00#8, fun _ _ => .revReset⟩,
   ⟨0x22#8, 0x0E#8, fun idx data => .revProcess (channelField idx) data⟩,
   ⟨0x22#8, 0x15#8, fun _ data => .revSetAmount data⟩]

/-- The rows of PIPE (R113). -/
def pipeRows : List OpRow :=
  [⟨0x3F#8, 0x00#8, fun _ _ => .pipeFullReset⟩,
   ⟨0x3F#8, 0x20#8, fun idx data => .pipeParamSet idx data⟩,
   ⟨0x3F#8, 0x21#8, fun idx _ => .pipeParamGet idx⟩,
   ⟨0x3F#8, 0x22#8, fun idx data => .pipeNoteOn (noteField idx) (velocityField data)⟩,
   ⟨0x3F#8, 0x23#8, fun idx _ => .pipeNoteOff (noteField idx)⟩,
   ⟨0x3F#8, 0x24#8, fun _ data => .pipeProcessBlock data⟩]

/-- The operation map (R113), 139 rows. -/
def opRows : List OpRow :=
  e0Rows ++ e1Rows ++ e2Rows ++ e3Rows ++ e4Rows ++ e5Rows ++ e6Rows ++ e7Rows ++ e8Rows ++ e9Rows ++ e10Rows ++ e11Rows ++
  adsrRows ++ adRows ++ lfoRows ++ fltRows ++ dlyRows ++ choRows ++ revRows ++ pipeRows

/-- The row with the given `UNIT` and `OP`. -/
def findRow (unit op : BitVec 8) : Option OpRow := opRows.find? fun r => r.unit == unit && r.op == op

/-- The operation whose fields are the given ones (R113), or why there is none (R118). -/
def decodeFields (unit op : BitVec 8) (idx : Idx) (data : Data) : Except DecodeError Instr :=
  match findRow unit op with
  | some r => .ok (r.build idx data)
  | none => if opRows.any fun r => r.unit == unit then .error .reservedOp else .error .reservedUnit

/-- The operation a command word stands for; total on every word (R111, R118). -/
def decode (cw : CommandWord) : Except DecodeError Instr :=
  decodeFields (unitField cw) (opField cw) (idxField cw) (dataField cw)

/-- The operation read from a word given as a number: the command word is one value, bit 0 the least significant (R90,
R110); bits at and above `nbits` are 0. -/
def decodeTableWord (nbits w : Nat) : Option Instr :=
  match decode (BitVec.ofNat 64 (w % 2 ^ nbits)) with
  | .ok i => some i
  | .error _ => none

/-! ## Encoder -/

/-- The command word of an operation; the fields the operation does not take are 0 (R111, R113). -/
def encode : Instr → CommandWord
  | .e0Reset => commandWord 0x00#8 0x00#8 0#16 0#32
  | .e0SetSr v => commandWord 0x00#8 0x01#8 0#16 v
  | .e0SetFreq v => commandWord 0x00#8 0x02#8 0#16 v
  | .e0SetHarm v => commandWord 0x00#8 0x03#8 0#16 v
  | .e0SetTimb v => commandWord 0x00#8 0x04#8 0#16 v
  | .e0SetMorph v => commandWord 0x00#8 0x05#8 0#16 v
  | .e0SetLevel v => commandWord 0x00#8 0x06#8 0#16 v
  | .e0Produce => commandWord 0x00#8 0x07#8 0#16 0#32
  | .e1Reset => commandWord 0x01#8 0x00#8 0#16 0#32
  | .e1SetSr v => commandWord 0x01#8 0x01#8 0#16 v
  | .e1SetFreq v => commandWord 0x01#8 0x02#8 0#16 v
  | .e1SetHarm v => commandWord 0x01#8 0x03#8 0#16 v
  | .e1SetTimb v => commandWord 0x01#8 0x04#8 0#16 v
  | .e1SetMorph v => commandWord 0x01#8 0x05#8 0#16 v
  | .e1SetLevel v => commandWord 0x01#8 0x06#8 0#16 v
  | .e1Produce => commandWord 0x01#8 0x07#8 0#16 0#32
  | .e2Reset => commandWord 0x02#8 0x00#8 0#16 0#32
  | .e2SetSr v => commandWord 0x02#8 0x01#8 0#16 v
  | .e2SetFreq v => commandWord 0x02#8 0x02#8 0#16 v
  | .e2SetHarm v => commandWord 0x02#8 0x03#8 0#16 v
  | .e2SetTimb v => commandWord 0x02#8 0x04#8 0#16 v
  | .e2SetMorph v => commandWord 0x02#8 0x05#8 0#16 v
  | .e2SetLevel v => commandWord 0x02#8 0x06#8 0#16 v
  | .e2Produce => commandWord 0x02#8 0x07#8 0#16 0#32
  | .e3Reset => commandWord 0x03#8 0x00#8 0#16 0#32
  | .e3SetSr v => commandWord 0x03#8 0x01#8 0#16 v
  | .e3SetFreq v => commandWord 0x03#8 0x02#8 0#16 v
  | .e3SetHarm v => commandWord 0x03#8 0x03#8 0#16 v
  | .e3SetTimb v => commandWord 0x03#8 0x04#8 0#16 v
  | .e3SetMorph v => commandWord 0x03#8 0x05#8 0#16 v
  | .e3SetLevel v => commandWord 0x03#8 0x06#8 0#16 v
  | .e3Produce => commandWord 0x03#8 0x07#8 0#16 0#32
  | .e4Reset => commandWord 0x04#8 0x00#8 0#16 0#32
  | .e4SetSr v => commandWord 0x04#8 0x01#8 0#16 v
  | .e4SetFreq v => commandWord 0x04#8 0x02#8 0#16 v
  | .e4SetHarm v => commandWord 0x04#8 0x03#8 0#16 v
  | .e4SetTimb v => commandWord 0x04#8 0x04#8 0#16 v
  | .e4SetMorph v => commandWord 0x04#8 0x05#8 0#16 v
  | .e4SetLevel v => commandWord 0x04#8 0x06#8 0#16 v
  | .e4Produce => commandWord 0x04#8 0x07#8 0#16 0#32
  | .e5Reset => commandWord 0x05#8 0x00#8 0#16 0#32
  | .e5SetSr v => commandWord 0x05#8 0x01#8 0#16 v
  | .e5SetFreq v => commandWord 0x05#8 0x02#8 0#16 v
  | .e5SetHarm v => commandWord 0x05#8 0x03#8 0#16 v
  | .e5SetTimb v => commandWord 0x05#8 0x04#8 0#16 v
  | .e5SetMorph v => commandWord 0x05#8 0x05#8 0#16 v
  | .e5SetLevel v => commandWord 0x05#8 0x06#8 0#16 v
  | .e5Produce => commandWord 0x05#8 0x07#8 0#16 0#32
  | .e6Reset => commandWord 0x06#8 0x00#8 0#16 0#32
  | .e6SetSr v => commandWord 0x06#8 0x01#8 0#16 v
  | .e6SetFreq v => commandWord 0x06#8 0x02#8 0#16 v
  | .e6SetHarm v => commandWord 0x06#8 0x03#8 0#16 v
  | .e6SetTimb v => commandWord 0x06#8 0x04#8 0#16 v
  | .e6SetMorph v => commandWord 0x06#8 0x05#8 0#16 v
  | .e6SetLevel v => commandWord 0x06#8 0x06#8 0#16 v
  | .e6Produce => commandWord 0x06#8 0x07#8 0#16 0#32
  | .e7Reset => commandWord 0x07#8 0x00#8 0#16 0#32
  | .e7SetSr v => commandWord 0x07#8 0x01#8 0#16 v
  | .e7SetFreq v => commandWord 0x07#8 0x02#8 0#16 v
  | .e7SetHarm v => commandWord 0x07#8 0x03#8 0#16 v
  | .e7SetTimb v => commandWord 0x07#8 0x04#8 0#16 v
  | .e7SetMorph v => commandWord 0x07#8 0x05#8 0#16 v
  | .e7SetLevel v => commandWord 0x07#8 0x06#8 0#16 v
  | .e7Produce => commandWord 0x07#8 0x07#8 0#16 0#32
  | .e8Reset => commandWord 0x08#8 0x00#8 0#16 0#32
  | .e8SetSr v => commandWord 0x08#8 0x01#8 0#16 v
  | .e8SetFreq v => commandWord 0x08#8 0x02#8 0#16 v
  | .e8SetHarm v => commandWord 0x08#8 0x03#8 0#16 v
  | .e8SetTimb v => commandWord 0x08#8 0x04#8 0#16 v
  | .e8SetMorph v => commandWord 0x08#8 0x05#8 0#16 v
  | .e8SetLevel v => commandWord 0x08#8 0x06#8 0#16 v
  | .e8Produce => commandWord 0x08#8 0x07#8 0#16 0#32
  | .e9Reset => commandWord 0x09#8 0x00#8 0#16 0#32
  | .e9SetSr v => commandWord 0x09#8 0x01#8 0#16 v
  | .e9SetFreq v => commandWord 0x09#8 0x02#8 0#16 v
  | .e9SetHarm v => commandWord 0x09#8 0x03#8 0#16 v
  | .e9SetTimb v => commandWord 0x09#8 0x04#8 0#16 v
  | .e9SetMorph v => commandWord 0x09#8 0x05#8 0#16 v
  | .e9SetLevel v => commandWord 0x09#8 0x06#8 0#16 v
  | .e9Produce => commandWord 0x09#8 0x07#8 0#16 0#32
  | .e10Reset => commandWord 0x0A#8 0x00#8 0#16 0#32
  | .e10SetSr v => commandWord 0x0A#8 0x01#8 0#16 v
  | .e10SetFreq v => commandWord 0x0A#8 0x02#8 0#16 v
  | .e10SetHarm v => commandWord 0x0A#8 0x03#8 0#16 v
  | .e10SetTimb v => commandWord 0x0A#8 0x04#8 0#16 v
  | .e10SetMorph v => commandWord 0x0A#8 0x05#8 0#16 v
  | .e10SetLevel v => commandWord 0x0A#8 0x06#8 0#16 v
  | .e10Produce => commandWord 0x0A#8 0x07#8 0#16 0#32
  | .e11Reset => commandWord 0x0B#8 0x00#8 0#16 0#32
  | .e11SetSr v => commandWord 0x0B#8 0x01#8 0#16 v
  | .e11SetFreq v => commandWord 0x0B#8 0x02#8 0#16 v
  | .e11SetHarm v => commandWord 0x0B#8 0x03#8 0#16 v
  | .e11SetTimb v => commandWord 0x0B#8 0x04#8 0#16 v
  | .e11SetMorph v => commandWord 0x0B#8 0x05#8 0#16 v
  | .e11SetLevel v => commandWord 0x0B#8 0x06#8 0#16 v
  | .e11Produce => commandWord 0x0B#8 0x07#8 0#16 0#32
  | .adsrReset => commandWord 0x10#8 0x00#8 0#16 0#32
  | .adsrSetSr v => commandWord 0x10#8 0x01#8 0#16 v
  | .adsrSetAttack v => commandWord 0x10#8 0x08#8 0#16 v
  | .adsrSetDecay v => commandWord 0x10#8 0x09#8 0#16 v
  | .adsrSetSustain v => commandWord 0x10#8 0x0A#8 0#16 v
  | .adsrSetRelease v => commandWord 0x10#8 0x0B#8 0#16 v
  | .adsrGateOn => commandWord 0x10#8 0x0C#8 0#16 0#32
  | .adsrGateOff => commandWord 0x10#8 0x0D#8 0#16 0#32
  | .adsrProcess => commandWord 0x10#8 0x0E#8 0#16 0#32
  | .adReset => commandWord 0x11#8 0x00#8 0#16 0#32
  | .adSetSr v => commandWord 0x11#8 0x01#8 0#16 v
  | .adSetAttack v => commandWord 0x11#8 0x08#8 0#16 v
  | .adSetDecay v => commandWord 0x11#8 0x09#8 0#16 v
  | .adGateOn => commandWord 0x11#8 0x0C#8 0#16 0#32
  | .adGateOff => commandWord 0x11#8 0x0D#8 0#16 0#32
  | .adProcess => commandWord 0x11#8 0x0E#8 0#16 0#32
  | .lfoReset => commandWord 0x12#8 0x00#8 0#16 0#32
  | .lfoSetSr v => commandWord 0x12#8 0x01#8 0#16 v
  | .lfoSetFreq v => commandWord 0x12#8 0x02#8 0#16 v
  | .lfoProcess => commandWord 0x12#8 0x0E#8 0#16 0#32
  | .lfoSetWave v => commandWord 0x12#8 0x10#8 0#16 v
  | .lfoSetVar v => commandWord 0x12#8 0x11#8 0#16 v
  | .fltReset => commandWord 0x18#8 0x00#8 0#16 0#32
  | .fltSetSr v => commandWord 0x18#8 0x01#8 0#16 v
  | .fltProcess c v => commandWord 0x18#8 0x0E#8 c v
  | .fltSetCutoff v => commandWord 0x18#8 0x12#8 0#16 v
  | .fltSetRes v => commandWord 0x18#8 0x13#8 0#16 v
  | .fltSetWet v => commandWord 0x18#8 0x14#8 0#16 v
  | .dlyReset => commandWord 0x20#8 0x00#8 0#16 0#32
  | .dlyProcess c v => commandWord 0x20#8 0x0E#8 c v
  | .dlySetAmount v => commandWord 0x20#8 0x15#8 0#16 v
  | .choReset => commandWord 0x21#8 0x00#8 0#16 0#32
  | .choProcess c v => commandWord 0x21#8 0x0E#8 c v
  | .choSetAmount v => commandWord 0x21#8 0x15#8 0#16 v
  | .revReset => commandWord 0x22#8 0x00#8 0#16 0#32
  | .revProcess c v => commandWord 0x22#8 0x0E#8 c v
  | .revSetAmount v => commandWord 0x22#8 0x15#8 0#16 v
  | .pipeFullReset => commandWord 0x3F#8 0x00#8 0#16 0#32
  | .pipeParamSet i v => commandWord 0x3F#8 0x20#8 i v
  | .pipeParamGet i => commandWord 0x3F#8 0x21#8 i 0#32
  | .pipeNoteOn note vel => commandWord 0x3F#8 0x22#8 note vel
  | .pipeNoteOff note => commandWord 0x3F#8 0x23#8 note 0#32
  | .pipeProcessBlock n => commandWord 0x3F#8 0x24#8 0#16 n

end Sys2Proof
end

