-- ==== Sys2Proof/Config/Free.lean ====
section
/-! DEFINITION. The FREE VALUES of the model: values the spec leaves open, as opaque constants without a body. Nothing
in Lean can evaluate one or prove what it is, so a theorem holds whatever it is (logs 5, 6, 12). -/

namespace Sys2Proof.Config

/-- The operations of `NUM` that can be asked for a value the spec does not state. -/
inductive NumOp where
  | add | mul | div | sin | tan | tanh | pow
  deriving DecidableEq, Repr

/-- Sign and payload of the NaN that an operation delivers for operands whose result IEEE-754 or the real function
leaves without a value (log 6). FREE. -/
opaque nanPayload (op : NumOp) (a b : BitVec 32) : BitVec 32

/-- What `floor` (R10) gives for a word that is an infinity or a NaN (log 5). FREE. -/
opaque floorNonFinite (a : BitVec 32) : Int

/-- `MAX_FRAMES` of the reference configuration: OPEN, without a default (R6, log 12). FREE. -/
opaque maxFramesOpen : BitVec 32

end Sys2Proof.Config
end

