-- ==== Sys2Proof/Config/Format.lean ====
section
/-! DEFINITION. The number format `NUM` as an argument of the model (R6, R7, R61, U1): its words, what they stand for, and
its operators, each with its one rounding (R8). -/

namespace Sys2Proof.Config

/-- A number format with the words `N`. The reference format is `binary32`, on the words `NUM` (log 2). -/
structure Format (N : Type) where
  /-- The number a finite word stands for. -/
  value : N → ℚ
  isNaN : N → Bool
  isFinite : N → Bool
  /-- `a <= b` and `a < b`, false when either is a NaN. -/
  le : N → N → Bool
  lt : N → N → Bool
  /-- `floor(v)`, the greatest integer not above `v` (R10). -/
  floor : N → Int
  /-- The operators of the pseudocode, each with its one rounding (R8); `neg` and `abs` are exact. -/
  neg : N → N
  abs : N → N
  add : N → N → N
  sub : N → N → N
  mul : N → N → N
  div : N → N → N
  /-- A number `n / d` of the rules, as the word for it. -/
  ofRat : Int → Nat → N
  /-- 0, the word a zero fill writes (R85). -/
  zero : N
  /-- `PI` (R10). -/
  pi : N
  /-- `DENORM_MIN` (R6, R12). -/
  denormMin : N
  /-- `num(DATA)`: the binary32 value of the 32 bits, converted to `NUM` (R114). -/
  num : BitVec 32 → N
  /-- The 32 bits with which a port returns a word (R116, R117). -/
  word : N → BitVec 32

end Sys2Proof.Config
end

