-- ==== Sys2Proof/Machine/Arith.lean ====
section
/-! DEFINITION. The primitives of the pseudocode (R10, R12, R13), in the arithmetic of any number format. -/

namespace Sys2Proof.Config.Format

variable {N : Type} (F : Format N)

/-! ## Numbers of the rules -/

def ofInt (n : Int) : N := F.ofRat n 1

def ofNat (n : Nat) : N := F.ofRat n 1

def one : N := F.ofNat 1

def two : N := F.ofNat 2

/-! ## The primitives that do not round -/

/-- `max(a, b)`; `b` when `a` is a NaN (log 4). -/
def max (a b : N) : N := if F.le b a then a else b

/-- `min(a, b)`; `b` when `a` is a NaN (log 4). -/
def min (a b : N) : N := if F.le a b then a else b

/-- `clamp(v, lo, hi) = min(max(v, lo), hi)` (R10). -/
def clamp (v lo hi : N) : N := F.min (F.max v lo) hi

/-- `san(v, lo, hi)`: `lo` when `v` is a NaN, else clamped (R10, R13). -/
def san (v lo hi : N) : N := if F.isNaN v then lo else F.clamp v lo hi

/-- `san(v, 0, 1)`, the bound of the 0..1 controls. -/
def sanUnit (v : N) : N := F.san v F.zero F.one

/-- `ftz(v)`: 0 when `|v| < DENORM_MIN` (R12). -/
def ftz (v : N) : N := if F.lt (F.abs v) F.denormMin then F.zero else v

/-- The test of every sample-rate setter, `v` not NaN and `0 < v < +Inf` (R153), made after `ftz` (log 8). -/
def isRate (v : N) : Bool := F.lt F.zero (F.ftz v) && F.isFinite v

/-! ## The primitives that round -/

/-- `round(v) = floor(v + 0.5)` (R10). -/
def round (v : N) : Int := F.floor (F.add v (F.ofRat 1 2))

/-- `wrap1(p) = p - floor(p)`, a value in [0, 1) (R10); a difference that rounds to 1 becomes 0 (log 7). -/
def wrap1 (p : N) : N :=
  let r := F.sub p (F.ofInt (F.floor p))
  if F.le F.zero r && F.lt r F.one then r else F.zero

/-- `lerp(a, b, t) = a + t·(b - a)` (R10). -/
def lerp (a b t : N) : N := F.add a (F.mul t (F.sub b a))

end Sys2Proof.Config.Format
end

