-- ==== Sys2Proof/Machine/Constants.lean ====
section
/-! DEFINITION. The SOURCED constants (R6): values the source itself fixes, the same in every configuration, and the
few numbers the rules write as literals. A decimal of the spec is the word the format has for it (log 2). -/

namespace Sys2Proof.Config

/-! ## Integers -/

/-- `A4_NOTE`. -/
def a4Note : Nat := 69
/-- `FM_PERIOD` in samples (R282). -/
def fmPeriod : Nat := 2000
/-- `ADD_NMIN` and `ADD_NMAX` (R252). -/
def addNMin : Nat := 2
def addNMax : Nat := 16
/-- `STR_LMIN` and `STR_LMAX` in samples (R312). -/
def strLMin : Nat := 8
def strLMax : Nat := 2048
/-- `LFO_STEP_MIN` and `LFO_STEP_MAX` (R381). -/
def lfoStepMin : Nat := 2
def lfoStepMax : Nat := 16

namespace Format

variable {N : Type} (F : Format N)

/-! ## Global (R6, R10) -/

/-- `2·PI`. -/
def twoPi : N := F.mul F.two F.pi
/-- `A4_HZ`. -/
def a4Hz : N := F.ofNat 440
/-- `LFO_AM_DEPTH`. -/
def lfoAmDepth : N := F.ofRat 2 10
/-- `ENV_TMIN` in seconds. -/
def envTMin : N := F.ofRat 1 10000

/-! ## Engines 6, 8 and 11 (R282, R252, R332) -/

/-- `FM_DECAY`. -/
def fmDecay : N := F.ofRat 9995 10000
/-- `ADD_SLOPE`. -/
def addSlope : N := F.ofRat 7 10
/-- The bounds of the pulse width, 0.05 and 0.95. -/
def pwmPwLo : N := F.ofRat 5 100
def pwmPwHi : N := F.ofRat 95 100

/-! ## Filter and effects (R402, R422, R442, R462) -/

/-- `RES_SCALE`. -/
def resScale : N := F.ofNat 4
def dlyTMin : N := F.ofRat 40 1000
def dlyTMax : N := F.one
def dlyFbMin : N := F.ofRat 45 100
def dlyFbMax : N := F.ofRat 90 100
/-- `CHO_PHASE0` in radians. -/
def choPhase0 : List N := [F.zero, F.ofRat 21 10, F.ofRat 42 10]
def choRateMin : N := F.ofRat 25 100
def choRateMax : N := F.ofRat 175 100
def choDepthMin : N := F.ofRat 17 10000
def choDepthMax : N := F.ofRat 8 1000
def revFbBase : N := F.ofRat 75 100
def revFbSpan : N := F.ofRat 22 100
def revApG : N := F.ofRat 5 10

end Format

end Sys2Proof.Config
end

