-- ==== Sys2Proof/Machine/EngineState.lean ====
section
/-! DEFINITION. The state of the twelve tone engines (R38 to R50) as plain data, the shapes it is built from, and the type of
an engine body (R172). -/

namespace Sys2Proof.Machine

variable {N : Type}

/-! ## Shapes -/

/-- One copy per channel: `c` = 0 left, `c` = 1 right (R50, R54 to R57). -/
structure Stereo (α : Type) where
  l : α
  r : α
  deriving DecidableEq, Repr

/-- A fixed number of `NUM` words under one name, such as `ph[0..8]`. -/
structure Bank (n : Nat) (N : Type) where
  words : List N
  len : words.length = n
  deriving DecidableEq, Repr

/-- A bank whose words are all `v`. -/
def Bank.fill (n : Nat) (v : N) : Bank n N := ⟨List.replicate n v, List.length_replicate⟩

/-- The words of one circular buffer (R81), as (index, word) pairs in one canonical form: indices strictly rising and
below the capacity, no word equal to +0.0, which is what an unlisted index reads as (R85). -/
abbrev Memory (N : Type) := List (Nat × N)

/-- A buffer with the one cursor that serves as read and write position (R57, R464). -/
structure Line (N : Type) where
  buf : Memory N
  idx : Nat
  deriving DecidableEq, Repr

/-- A zero-filled line with its cursor at 0. -/
def Line.clear : Line N := ⟨[], 0⟩

/-! ## Tone engines -/

/-- The seven control fields of every engine (R38). -/
structure EngineRegs (N : Type) where
  sr : N
  freq : N
  harm : N
  timb : N
  morph : N
  level : N
  seed : BitVec 32
  deriving DecidableEq, Repr

/-- E0 sine_osc_lut (R39). -/
structure SineOsc (N : Type) where
  regs : EngineRegs N
  ph : N
  deriving DecidableEq, Repr

/-- E1 triangle_osc_gen (R40). -/
structure TriangleOsc (N : Type) where
  regs : EngineRegs N
  ph : N
  integ : N
  lp : N
  deriving DecidableEq, Repr

/-- E2 square_osc_gen (R41). -/
structure SquareOsc (N : Type) where
  regs : EngineRegs N
  ph : N
  lp : N
  deriving DecidableEq, Repr

/-- E3 sawtooth_osc_gen (R42). -/
structure SawOsc (N : Type) where
  regs : EngineRegs N
  ph : N
  lp : N
  deriving DecidableEq, Repr

/-- E4 supersaw_osc_bank (R43): `ph[0..8]`. -/
structure SupersawBank (N : Type) where
  regs : EngineRegs N
  ph : Bank 9 N
  deriving DecidableEq, Repr

/-- E5 virtual_analog_osc (R44). -/
structure VirtualAnalog (N : Type) where
  regs : EngineRegs N
  phA : N
  phB : N
  deriving DecidableEq, Repr

/-- E6 fm_osc_pair (R45). -/
structure FmPair (N : Type) where
  regs : EngineRegs N
  phC : N
  phM : N
  fbz : N
  env : N
  cnt : Nat
  deriving DecidableEq, Repr

/-- E7 formant_osc_filter (R46): `ic1[0..2]`, `ic2[0..2]`. -/
structure FormantFilter (N : Type) where
  regs : EngineRegs N
  ph : N
  ic1 : Bank 3 N
  ic2 : Bank 3 N
  deriving DecidableEq, Repr

/-- E8 additive_osc_bank (R47): the word at position `n - 1` of a bank is that of partial `n`. -/
structure AdditiveBank (N : Type) where
  regs : EngineRegs N
  ph : Bank 16 N
  det : Bank 16 N
  deriving DecidableEq, Repr

/-- E9 chord_osc_stack (R48): `ph[0..3]`. -/
structure ChordStack (N : Type) where
  regs : EngineRegs N
  ph : Bank 4 N
  deriving DecidableEq, Repr

/-- E10 plucked_string_osc (R49). -/
structure PluckedString (N : Type) where
  regs : EngineRegs N
  bufA : Memory N
  bufB : Memory N
  w : Nat
  lpA : N
  lpB : N
  apz : N
  bow : N
  excnt : Nat
  deriving DecidableEq, Repr

/-- The per-channel state of E11 (R50). -/
structure PwmChannel (N : Type) where
  ph : N
  drift : N
  target : N
  dcx : N
  dcy : N
  deriving DecidableEq, Repr

/-- E11 pwm_osc_gen (R50). -/
structure PwmOsc (N : Type) where
  regs : EngineRegs N
  ch : Stereo (PwmChannel N)
  dcnt : Nat
  deriving DecidableEq, Repr

/-! ## Engine bodies (R168, R172) -/

/-- What one call of an engine body answers: the engine's state after the call, how many values it drew, and the raw pair
it hands to the output stage (R168). -/
structure BodyStep (E N : Type) where
  state : E
  draws : Nat
  xL : N
  xR : N

/-- A body of one engine, (state, controls, draws) -> (state, xL, xR) (R172). `E` holds the private state and the controls;
the second argument is the values the engine's generator gives next, the first one at 0. -/
abbrev EngineBody (E N : Type) := E → (Nat → N) → BodyStep E N

/-- `ENGINE_BODY[k]` for the twelve engines; `none` is the spec's reference body. -/
structure EngineBodies (N : Type) where
  sine : Option (EngineBody (SineOsc N) N) := none
  triangle : Option (EngineBody (TriangleOsc N) N) := none
  square : Option (EngineBody (SquareOsc N) N) := none
  saw : Option (EngineBody (SawOsc N) N) := none
  supersaw : Option (EngineBody (SupersawBank N) N) := none
  virtualAnalog : Option (EngineBody (VirtualAnalog N) N) := none
  fm : Option (EngineBody (FmPair N) N) := none
  formant : Option (EngineBody (FormantFilter N) N) := none
  additive : Option (EngineBody (AdditiveBank N) N) := none
  chord : Option (EngineBody (ChordStack N) N) := none
  pluckedString : Option (EngineBody (PluckedString N) N) := none
  pwm : Option (EngineBody (PwmOsc N) N) := none

end Sys2Proof.Machine
end

