-- ==== Sys2Proof/Machine/Num.lean ====
section
/-! DEFINITION. The reference number format: IEEE-754 binary32, round to nearest, ties to even (R6, R8), on the words
`NUM`. A primitive of Machine/Arith.lean has here, under the same name, its meaning in this format.

A finite word is an integer number of UNITS of 2^-149, the spacing of the smallest binary32 numbers. Every operation
computes exactly on units and rounds once, in `NUM.roundMag`: one rounding per operator (R8). -/

namespace Sys2Proof

/-! ## The parts of a word (R114) -/

/-- The magnitude bits of infinity: a magnitude below it is finite, one above it is a NaN. -/
def NUM.infMag : Nat := 0x7F800000

/-- Bits 30:0 of the word: exponent and fraction. -/
def NUM.mag (a : NUM) : Nat := a.bits.toNat % 2 ^ 31

/-- Bit 31, the sign. -/
def NUM.sign (a : NUM) : Bool := Nat.ble (2 ^ 31) a.bits.toNat

def NUM.isNaN (a : NUM) : Bool := Nat.blt NUM.infMag a.mag

def NUM.isInf (a : NUM) : Bool := Nat.beq a.mag NUM.infMag

def NUM.isFinite (a : NUM) : Bool := Nat.blt a.mag NUM.infMag

/-- The word with the given sign and magnitude bits. -/
def NUM.ofMag (neg : Bool) (m : Nat) : NUM := ⟨BitVec.ofNat 32 (if neg then 2 ^ 31 + m else m)⟩

def NUM.zero : NUM := ⟨0#32⟩

/-- The magnitude of a finite word in units of 2^-149 (exponent in bits 30:23, fraction in bits 22:0). -/
def NUM.unitsAbs (a : NUM) : Nat :=
  if a.mag / 2 ^ 23 = 0 then a.mag else (a.mag % 2 ^ 23 + 2 ^ 23) <<< (a.mag / 2 ^ 23 - 1)

/-- The value of a finite word in units of 2^-149. -/
def NUM.units (a : NUM) : Int := if a.sign then - (a.unitsAbs : Int) else (a.unitsAbs : Int)

/-- The number a finite word stands for. -/
def NUM.value (a : NUM) : ℚ := mkRat a.units (1 <<< 149)

/-! ## Rounding -/

/-- The integer nearest to `n / d`, a tie going to the even one. -/
def NUM.nearest (n d : Nat) : Nat :=
  if d < n % d * 2 then n / d + 1
  else if n % d * 2 = d then n / d + n / d % 2
  else n / d

/-- The magnitude bits of the binary32 number nearest to `n / d` units, ties to even; those of infinity when the
rounded value is too large for the format. The exponent is that of the 24-bit significand whose unit is `2^sh`. -/
@[irreducible] def NUM.roundMag (n d : Nat) : Nat :=
  let sh := Nat.log2 (n / d) - 23
  min (sh * 2 ^ 23 + NUM.nearest n (d <<< sh)) NUM.infMag

/-- The word nearest to `n / d`, for `d > 0`. -/
@[irreducible] def NUM.ofRat (n : Int) (d : Nat) : NUM := NUM.ofMag (decide (n < 0)) (NUM.roundMag (n.natAbs <<< 149) d)

def NUM.ofInt (n : Int) : NUM := NUM.ofRat n 1

def NUM.ofNat (n : Nat) : NUM := NUM.ofRat n 1

def NUM.one : NUM := NUM.ofNat 1

def NUM.two : NUM := NUM.ofNat 2

/-- The NaN an operation delivers: quiet, with the sign and the payload left free (log 6). -/
def NUM.nan (op : Config.NumOp) (a b : NUM) : NUM :=
  ⟨(Config.nanPayload op a.bits b.bits &&& 0x803FFFFF#32) ||| 0x7FC00000#32⟩

/-! ## The operators of the pseudocode (R8, R10) -/

def NUM.neg (a : NUM) : NUM := NUM.ofMag (!a.sign) a.mag

def NUM.abs (a : NUM) : NUM := NUM.ofMag false a.mag

/-- `a + b`. A zero sum is +0.0 unless both operands are negative zeros. -/
@[irreducible] def NUM.add (a b : NUM) : NUM :=
  if a.isNaN || b.isNaN then NUM.nan .add a b
  else if a.isInf then (if b.isInf && (a.sign != b.sign) then NUM.nan .add a b else a)
  else if b.isInf then b
  else if a.units + b.units = 0 then NUM.ofMag (a.sign && b.sign) 0
  else NUM.ofMag (decide (a.units + b.units < 0)) (NUM.roundMag (a.units + b.units).natAbs 1)

/-- `a - b`. -/
def NUM.sub (a b : NUM) : NUM := a.add b.neg

/-- `a · b`. -/
@[irreducible] def NUM.mul (a b : NUM) : NUM :=
  if a.isNaN || b.isNaN then NUM.nan .mul a b
  else if a.isInf || b.isInf then
    (if Nat.beq a.mag 0 || Nat.beq b.mag 0 then NUM.nan .mul a b else NUM.ofMag (a.sign != b.sign) NUM.infMag)
  else NUM.ofMag (a.sign != b.sign) (NUM.roundMag (a.unitsAbs * b.unitsAbs) (1 <<< 149))

/-- `a / b`. -/
@[irreducible] def NUM.div (a b : NUM) : NUM :=
  if a.isNaN || b.isNaN then NUM.nan .div a b
  else if a.isInf then (if b.isInf then NUM.nan .div a b else NUM.ofMag (a.sign != b.sign) NUM.infMag)
  else if b.isInf then NUM.ofMag (a.sign != b.sign) 0
  else if Nat.beq b.mag 0 then
    (if Nat.beq a.mag 0 then NUM.nan .div a b else NUM.ofMag (a.sign != b.sign) NUM.infMag)
  else NUM.ofMag (a.sign != b.sign) (NUM.roundMag (a.unitsAbs <<< 149) b.unitsAbs)

/-! ## Comparisons -/

/-- An integer that orders the words that are not NaN as their values are ordered; both zeros have key 0. -/
def NUM.key (a : NUM) : Int := if a.sign then - (a.mag : Int) else (a.mag : Int)

/-- `a < b`, false when either is a NaN. -/
def NUM.lt (a b : NUM) : Bool := !a.isNaN && !b.isNaN && decide (a.key < b.key)

/-- `a <= b`, false when either is a NaN. -/
def NUM.le (a b : NUM) : Bool := !a.isNaN && !b.isNaN && decide (a.key ≤ b.key)

/-! ## The primitives of R10 -/

/-- `DENORM_MIN` = 2^-126 as magnitude bits (R6). -/
def NUM.denormMinMag : Nat := 0x00800000

/-- `floor(v)`, the greatest integer not above `v` (R10); free for a word that is not finite (log 5). -/
@[irreducible] def NUM.floor (v : NUM) : Int :=
  if v.isFinite then v.units / ((1 <<< 149 : Nat) : Int) else Config.floorNonFinite v.bits

/-! ## The reference number format (R6, log 2) -/

/-- IEEE-754 binary32, round to nearest, ties to even. `num` and `word` are the identity (R114, R116). -/
def Config.binary32 : Config.Format NUM where
  value := NUM.value
  isNaN := NUM.isNaN
  isFinite := NUM.isFinite
  le := NUM.le
  lt := NUM.lt
  floor := NUM.floor
  neg := NUM.neg
  abs := NUM.abs
  add := NUM.add
  sub := NUM.sub
  mul := NUM.mul
  div := NUM.div
  ofRat := NUM.ofRat
  zero := NUM.zero
  pi := ⟨0x40490FDB#32⟩
  denormMin := NUM.ofMag false NUM.denormMinMag
  num := NUM.mk
  word := NUM.bits

def NUM.max (a b : NUM) : NUM := Config.binary32.max a b

def NUM.min (a b : NUM) : NUM := Config.binary32.min a b

def NUM.clamp (v lo hi : NUM) : NUM := Config.binary32.clamp v lo hi

def NUM.san (v lo hi : NUM) : NUM := Config.binary32.san v lo hi

def NUM.sanUnit (v : NUM) : NUM := Config.binary32.sanUnit v

def NUM.ftz (v : NUM) : NUM := Config.binary32.ftz v

def NUM.isRate (v : NUM) : Bool := Config.binary32.isRate v

def NUM.round (v : NUM) : Int := Config.binary32.round v

def NUM.wrap1 (p : NUM) : NUM := Config.binary32.wrap1 p

def NUM.lerp (a b t : NUM) : NUM := Config.binary32.lerp a b t

end Sys2Proof
end

