-- ==== Sys2Proof/Config.lean ====
section
/-! DEFINITION. The configuration (R6, R7, R61): the parameters the spec marks CHOSEN or OPEN, as the fields of one
structure that every definition depending on one takes as its argument, and the bounds the defining rules put on them, as
a premise. They are fixed for the life of an instance and are no state. The number format is one of them: `N` is the type
of its words. So are `MAX_FRAMES` and the engine bodies.

The spec's default values are Sys2Proof/Machine/Reference.lean; the constants the source fixes are
Sys2Proof/Machine/Constants.lean; the premise on a whole configuration, the engine bodies included, is
Sys2Proof/Config/Admissible.lean. -/

namespace Sys2Proof.Config

/-- The two readings of a selector value above the range (R503, conflict C4). -/
inductive SelOorPolicy where
  | clamp
  | zero
  deriving DecidableEq, Repr

/-- The parameters of one instance of the block, under the names of the spec; `NUM` and `DENORM_MIN` are those of the
number format. -/
structure Parameters (N : Type) extends Format N where
  /-- `N_PARAMS`, the number of parameter registers (R6, R31): an index of a parameter operation at or above it changes
  nothing. -/
  nParams : Nat
  /-- `SR` in Hz (R6, R572). DEDUCED (log 1): it need not be a whole number. -/
  sr : N
  /-- `SIN`, `TAN`, `TANH`, `POW` (R6). -/
  sin : N → N
  tan : N → N
  tanh : N → N
  pow : N → N → N
  /-- `RNG_STEP`, `RNG_OUT` (R163). -/
  rngStep : BitVec 32 → BitVec 32
  rngOut : BitVec 32 → N
  /-- `NOISE_AMP` (R164). -/
  noiseAmp : N
  /-- `ENGINE_GAIN[k]` (R166). -/
  engineGain : Nat → N
  /-- `ENGINE_SEED[k]`, `LFO_SEED` (R6). -/
  engineSeed : Nat → BitVec 32
  lfoSeed : BitVec 32
  /-- `SEL_OOR_POLICY`, `RESET_ON_SELECT`, `RESET_ON_NOTE_ON`, `FX_SAT`: the switches (R6). -/
  selOorPolicy : SelOorPolicy
  resetOnSelect : Bool
  resetOnNoteOn : Bool
  fxSat : Bool
  /-- `SIG_MAX` (R6). -/
  sigMax : N
  /-- `SILENCE_THRESH` (R507). -/
  silenceThresh : N
  /-- `ENV_TMAX` in seconds (R6). -/
  envTMax : N
  /-- `MAX_FRAMES`, OPEN: a 32-bit count (R6, D50). No meaning reads it; it is the premise of R496 and R553 (a) (log 12). -/
  maxFrames : BitVec 32
  /-- `ENGINE_BODY[k]` (R6, R172). -/
  engineBody : Machine.EngineBodies N
  /-- `PARAM_DEFAULT[i]`, OPEN (R31). -/
  paramDefault : Nat → N
  /-- `INC_MAX`, `BRIGHT_MIN` (R160, R167). -/
  incMax : N
  brightMin : N
  /-- Engine 0 (R192). -/
  sineH2 : N
  sineH3 : N
  sinePm : N
  /-- Engines 1 and 2 (R202, R212). -/
  triLeak : N
  sqPwSpan : N
  /-- Engine 4 (R232). -/
  ssDet : List N
  ssPan : List N
  ssDetuneMax : N
  ssNorm : N
  ssSideMin : N
  /-- Engine 5 (R243), in semitones. -/
  vaInt : List N
  /-- Engine 6 (R282). -/
  fmRatioMin : N
  fmRatioMax : N
  fmFbMax : N
  fmIndexMax : N
  /-- Engine 7 (R293), frequencies in Hz. -/
  vowel : List (List N)
  formantAmp : List (List N)
  formantPw : N
  formantQMin : N
  formantQMax : N
  formantFMax : N
  /-- Engine 8 (R252). -/
  addDetune : N
  /-- Engine 9 (R263), intervals in semitones. -/
  chordTab : List (List N)
  chordDet : List N
  /-- Engine 10 (R312). -/
  strCap : Nat
  strDetune : N
  strFb : N
  strDampMin : N
  strDampSpan : N
  strApG : N
  strExc : N
  strBowA : N
  strBowGain : N
  strStrikePeriod : Nat
  strPosMin : N
  /-- Engine 11 (R332). -/
  pwmPwSpan : N
  pwmDriftPeriod : Nat
  pwmDriftSlew : N
  pwmDriftPw : N
  pwmDepthMin : N
  pwmDriftPh : N
  pwmSpread : N
  pwmDcR : N
  /-- Filter (R402), `FC_MIN` in Hz. -/
  fcMin : N
  fcMaxRatio : N
  resMax : N
  /-- Delay (R422). -/
  dlyDamp : N
  /-- Chorus (R442): `CHO_CAP` in words, `CHO_BASE` in seconds. -/
  choCap : Nat
  choBase : N
  /-- Reverb (R462): `REV_COMB_LEN[0]`, `[1]`, `REV_AP_LEN[0]`, `[1]` in words, and `REV_COMB_MIX`. -/
  revCombLenL : List Nat
  revCombLenR : List Nat
  revApLenL : List Nat
  revApLenR : List Nat
  revCombMix : N

/-! ## What follows from the parameters -/

section
variable {N : Type} (cfg : Parameters N)

/-- `DLY_CAP = floor(1.0·SR)` words (R87), the floor of an `SR` that need not be whole (DEDUCED, log 1). -/
def Parameters.dlyCap : Nat := (cfg.floor cfg.sr).toNat

/-- `SAT(x) = TANH(x)` (R165). -/
def Parameters.sat (x : N) : N := cfg.tanh x

/-- The configuration with `MAX_FRAMES` at `maxFrames`. -/
def Parameters.withMaxFrames (maxFrames : BitVec 32) : Parameters N := { cfg with maxFrames := maxFrames }

/-! ## The premise on a number format (R8, R553 (b))

DEDUCED (log 2): R8 leaves the rounding open and does not say which roundings and formats count. -/

/-- `v` is the real number `x` rounded: no NaN, and on the same side of every finite word as `x`. -/
def Format.Rounds (F : Format N) (v : N) (x : ℝ) : Prop :=
  F.isNaN v = false ∧ ∀ w : N, F.isFinite w = true →
    ((F.value w : ℝ) ≤ x → F.le w v = true) ∧ (x ≤ (F.value w : ℝ) → F.le v w = true)

/-- `v` is a finite word whose value lies in `s`. -/
abbrev Format.Within (F : Format N) (s : Set ℚ) (v : N) : Prop := F.isFinite v = true ∧ F.value v ∈ s

/-- The comparisons order the words that are no NaN, the finite ones by their values and next to one another. -/
structure Format.OrderAdmissible (F : Format N) : Prop where
  notNaN : ∀ a : N, F.isFinite a = true → F.isNaN a = false
  le_value : ∀ a b : N, F.isFinite a = true → F.isFinite b = true → (F.le a b = true ↔ F.value a ≤ F.value b)
  le_notNaN : ∀ a b : N, F.le a b = true → F.isNaN a = false ∧ F.isNaN b = false
  le_total : ∀ a b : N, F.isNaN a = false → F.isNaN b = false → F.le a b = true ∨ F.le b a = true
  le_trans : ∀ a b c : N, F.le a b = true → F.le b c = true → F.le a c = true
  lt_iff : ∀ a b : N, F.lt a b = true ↔ F.le a b = true ∧ F.le b a = false
  between : ∀ a v b : N, F.isFinite a = true → F.isFinite b = true → F.le a v = true → F.le v b = true →
    F.isFinite v = true

/-- Every operator gives its exact result, rounded; 0, 1, `DENORM_MIN` and a change of sign are exact (R8). -/
structure Format.ArithmeticAdmissible (F : Format N) : Prop where
  zero : F.isFinite F.zero = true ∧ F.value F.zero = 0
  one : F.isFinite F.one = true ∧ F.value F.one = 1
  denormMin : F.Within (Set.Ioi 0) F.denormMin
  neg : ∀ a : N, F.isFinite a = true → F.isFinite (F.neg a) = true ∧ F.value (F.neg a) = -F.value a
  abs : ∀ a : N, F.isFinite a = true → F.isFinite (F.abs a) = true ∧ F.value (F.abs a) = |F.value a|
  floor : ∀ a : N, F.isFinite a = true → F.floor a = ⌊F.value a⌋
  ofRat : ∀ (n : Int) (d : Nat), 0 < d → F.Rounds (F.ofRat n d) ((n : ℝ) / d)
  pi : F.Rounds F.pi Real.pi
  add : ∀ a b : N, F.isFinite a = true → F.isFinite b = true → F.Rounds (F.add a b) (F.value a + F.value b : ℚ)
  sub : ∀ a b : N, F.isFinite a = true → F.isFinite b = true → F.Rounds (F.sub a b) (F.value a - F.value b : ℚ)
  mul : ∀ a b : N, F.isFinite a = true → F.isFinite b = true → F.Rounds (F.mul a b) (F.value a * F.value b : ℚ)
  div : ∀ a b : N, F.isFinite a = true → F.isFinite b = true → F.value b ≠ 0 →
    F.Rounds (F.div a b) (F.value a / F.value b : ℚ)

/-- The two conversions: from the binary32 value of `DATA` to `NUM` (R114), and from `NUM` to the binary32 value that a
port returns (R116, R117). -/
structure Format.PortsAdmissible (F : Format N) : Prop where
  num_nan : ∀ d : BitVec 32, (⟨d⟩ : NUM).isNaN = true → F.isNaN (F.num d) = true
  num : ∀ d : BitVec 32, (⟨d⟩ : NUM).isFinite = true → F.Rounds (F.num d) ((⟨d⟩ : NUM).value : ℚ)
  word : ∀ v : N, F.isFinite v = true → binary32.Rounds ⟨F.word v⟩ (F.value v : ℚ)

/-! ## The premise on a configuration (R7, R553 (b), (c)) -/

/-- Every length is at least 1 (R89). -/
def lengthsPositive (l : List Nat) : Bool := l.all fun n => Nat.ble 1 n

/-- The exact sum of the words of a table. -/
def Format.sumOf (F : Format N) (l : List N) : ℚ := (l.map F.value).sum

/-- The premises of R6 (D7) on the functions and of R163 on the generator.
DESIGN CHOICE (log 45): these are all the facts D7 lists, and no more. What a rule concludes from a further one is not assured
in every admissible configuration: `POW(1, y) = 1` (R254: `norm >= 1`, the division is safe, `|x| <= 1`), `|SIN| <= 1` (R194,
R284, R381, R442, R504), `TAN` beyond 0.45·PI (R293, R402), `SAT` odd and increasing (R165). -/
structure Parameters.FunctionsAdmissible : Prop where
  sin_zero : cfg.sin cfg.zero = cfg.zero
  tanh_zero : cfg.tanh cfg.zero = cfg.zero
  tanh_bound : ∀ x : N, cfg.isNaN x = false →
    cfg.isFinite (cfg.tanh x) = true ∧ cfg.le (cfg.abs (cfg.tanh x)) cfg.one = true
  pow_exact : ∀ (m : Int) (w : N), cfg.isFinite w = true → cfg.value w = 2 ^ m → cfg.le cfg.denormMin w = true →
    cfg.isFinite (cfg.pow cfg.two (cfg.ofInt m)) = true ∧ cfg.value (cfg.pow cfg.two (cfg.ofInt m)) = 2 ^ m
  tan_bound : ∀ x : N, cfg.lt cfg.zero x = true → cfg.le x (cfg.mul (cfg.ofRat 45 100) cfg.pi) = true →
    cfg.isFinite (cfg.tan x) = true ∧ cfg.lt cfg.zero (cfg.tan x) = true
  rng_bound : ∀ s : BitVec 32, cfg.Within (Set.Ico 0 1) (cfg.rngOut s)

/-- The bounds of R6, R164, R166, R507 and R553 (b) on the global parameters; R31 lists nineteen parameter registers, and
R485, R486 and R490 use the indices 0..18. DEDUCED (log 1): `SR` is at least 1, so that `DLY_CAP` is, and may be a fraction
of a Hz (what an `SR` of a few Hz makes of R428, R449, R403 and R56: logs 39, 43, 33, 47); `SIG_MAX` and `ENV_TMAX` are finite, `INC_MAX` is at most half a cycle, the premise of R161, and `BRIGHT_MIN`
keeps the coefficient of R167 in (0, 1]. -/
structure Parameters.GlobalsAdmissible : Prop where
  nParams : cfg.nParams = 19
  sr : cfg.Within (Set.Ici 1) cfg.sr
  noiseAmp : cfg.Within (Set.Icc 0 (1 / 100)) cfg.noiseAmp
  engineGain : ∀ k < 12, cfg.Within (Set.Ioc 0 (3 / 2)) (cfg.engineGain k)
  sigMax : cfg.Within (Set.Ioi (3 / 2)) cfg.sigMax
  silenceThresh : cfg.Within (Set.Ioc 0 (1 / 100)) cfg.silenceThresh
  envTMax : cfg.Within (Set.Ici 0) cfg.envTMax
  incMax : cfg.Within (Set.Ioc 0 (1 / 2)) cfg.incMax
  brightMin : cfg.Within (Set.Ioc 0 1) cfg.brightMin

/-- The bounds of R202, R212, R232, R243, R252, R263, R282 and R293. DEDUCED (log 1): a parameter these rules bound from
below alone is finite; R192 gives `SINE_H2`, `SINE_H3` and `SINE_PM` no bound, and here the first two are finite and not
negative, so that the divisor of R194 is at least 1 as that rule says, and the third is finite. -/
structure Parameters.OscillatorsAdmissible : Prop where
  sineH2 : cfg.Within (Set.Ici 0) cfg.sineH2
  sineH3 : cfg.Within (Set.Ici 0) cfg.sineH3
  sinePm : cfg.isFinite cfg.sinePm = true
  triLeak : cfg.Within (Set.Ioc 0 (1 / 100)) cfg.triLeak
  sqPwSpan : cfg.Within (Set.Ico 0 (1 / 2)) cfg.sqPwSpan
  ssDet : cfg.ssDet.length = 9 ∧ cfg.ssDet.getD 4 cfg.one = cfg.zero ∧ ∀ d ∈ cfg.ssDet, cfg.Within (Set.Icc (-1) 1) d
  ssPan : cfg.ssPan.length = 9 ∧ ∀ p ∈ cfg.ssPan, cfg.Within (Set.Icc 0 1) p
  ssDetuneMax : cfg.Within (Set.Ico 0 1) cfg.ssDetuneMax
  ssNorm : cfg.Within (Set.Ici (max (9 - cfg.sumOf cfg.ssPan) (cfg.sumOf cfg.ssPan))) cfg.ssNorm
  ssSideMin : cfg.Within (Set.Icc 0 1) cfg.ssSideMin
  vaInt : cfg.vaInt.length = 5 ∧ cfg.vaInt.Pairwise (fun a b => cfg.value a ≤ cfg.value b) ∧
    ∀ v ∈ cfg.vaInt, cfg.Within (Set.Icc 0 48) v
  addDetune : cfg.Within (Set.Ico 0 (1 / 10)) cfg.addDetune
  chordTab : cfg.chordTab.length = 8 ∧ ∀ r ∈ cfg.chordTab, r.length = 4 ∧ ∀ v ∈ r, cfg.Within (Set.Icc 0 36) v
  chordDet : cfg.chordDet.length = 4 ∧ ∀ d ∈ cfg.chordDet, cfg.Within (Set.Ioo (-1 / 100) (1 / 100)) d
  fmRatioMin : cfg.Within (Set.Ioc 0 (cfg.value cfg.fmRatioMax)) cfg.fmRatioMin
  fmRatioMax : cfg.Within (Set.Iic 16) cfg.fmRatioMax
  fmFbMax : cfg.Within (Set.Icc 0 (3 / 2)) cfg.fmFbMax
  fmIndexMax : cfg.Within (Set.Ici 0) cfg.fmIndexMax
  vowel : cfg.vowel.length = 5 ∧ ∀ r ∈ cfg.vowel, r.length = 3 ∧ ∀ f ∈ r, cfg.Within (Set.Ioi 0) f
  formantAmp : cfg.formantAmp.length = 5 ∧ ∀ r ∈ cfg.formantAmp, r.length = 3 ∧ ∀ a ∈ r, cfg.Within (Set.Icc 0 1) a
  formantPw : cfg.Within (Set.Ioc 0 (1 / 2)) cfg.formantPw
  formantQMin : cfg.Within (Set.Icc (1 / 2) (cfg.value cfg.formantQMax)) cfg.formantQMin
  formantQMax : cfg.isFinite cfg.formantQMax = true
  formantFMax : cfg.Within (Set.Ioo 0 (1 / 2)) cfg.formantFMax

/-- The bounds of R312 and R332. DEDUCED (log 1): `STR_DAMP_SPAN`, `STR_BOW_GAIN`, `PWM_DRIFT_PW` and `PWM_DRIFT_PH`, which
these rules do not bound or bound from below alone, are finite. -/
structure Parameters.StringPwmAdmissible : Prop where
  strCap : strLMax ≤ cfg.strCap
  strDetune : cfg.Within (Set.Ico 0 (5 / 100)) cfg.strDetune
  strFb : cfg.Within (Set.Ico 0 1) cfg.strFb
  strDampMin : cfg.Within (Set.Ioc 0 1) cfg.strDampMin
  strDampSpan : cfg.isFinite cfg.strDampSpan = true ∧
    cfg.value cfg.strDampMin + cfg.value cfg.strDampSpan ∈ Set.Ioc (0 : ℚ) 1
  strApG : cfg.Within (Set.Ioo (-1) 1) cfg.strApG
  strExc : cfg.Within (Set.Icc 0 1) cfg.strExc
  strBowA : cfg.Within (Set.Ioc 0 1) cfg.strBowA
  strBowGain : cfg.isFinite cfg.strBowGain = true
  strStrikePeriod : 1 ≤ cfg.strStrikePeriod
  strPosMin : cfg.Within (Set.Ioc 0 (1 / 2)) cfg.strPosMin
  pwmPwSpan : cfg.Within (Set.Ico 0 (45 / 100)) cfg.pwmPwSpan
  pwmDriftPeriod : 1 ≤ cfg.pwmDriftPeriod
  pwmDriftSlew : cfg.Within (Set.Ioc 0 1) cfg.pwmDriftSlew
  pwmDriftPw : cfg.Within (Set.Ici 0) cfg.pwmDriftPw
  pwmDepthMin : cfg.Within (Set.Icc 0 1) cfg.pwmDepthMin
  pwmDriftPh : cfg.Within (Set.Ici 0) cfg.pwmDriftPh
  pwmSpread : cfg.Within (Set.Ico 0 (1 / 10)) cfg.pwmSpread
  pwmDcR : cfg.Within (Set.Ioo 0 1) cfg.pwmDcR

/-- The bounds of R402, R422, R442, R89 and R462. `RES_MAX = 1` is allowed (U15). DEDUCED (log 1):
`FC_MIN` and `CHO_BASE` are finite.
DESIGN CHOICE (log 43): `choBase` and `choCap` are R442's constraint as it stands, on the real number 8/1000, and nothing is
added to it so that its conclusion holds: a `CHO_BASE` just above 8 ms is admitted, and delays under one sample follow from it.
DESIGN CHOICE (log 33): nothing relates `fcMin` to `SR`, so R402's range for the cutoff may be empty. -/
structure Parameters.EffectsAdmissible : Prop where
  fcMin : cfg.Within (Set.Ioi 0) cfg.fcMin
  fcMaxRatio : cfg.Within (Set.Ioo 0 (1 / 2)) cfg.fcMaxRatio
  resMax : cfg.Within (Set.Icc 0 1) cfg.resMax
  dlyDamp : cfg.Within (Set.Ioc 0 1) cfg.dlyDamp
  choBase : cfg.Within (Set.Ioi (8 / 1000)) cfg.choBase
  choCap : (cfg.value cfg.choBase + 8 / 1000) * cfg.value cfg.sr + 2 < cfg.choCap
  revCounts : cfg.revCombLenL.length = 4 ∧ cfg.revCombLenR.length = 4 ∧ cfg.revApLenL.length = 2 ∧
    cfg.revApLenR.length = 2
  revPositive : lengthsPositive (cfg.revCombLenL ++ cfg.revCombLenR ++ cfg.revApLenL ++ cfg.revApLenR) = true
  revCoprime : cfg.revCombLenL.Pairwise Nat.Coprime ∧ cfg.revCombLenR.Pairwise Nat.Coprime
  revDifferent : cfg.revCombLenL ≠ cfg.revCombLenR ∧ cfg.revApLenL ≠ cfg.revApLenR
  revCombMix : cfg.Within (Set.Ioc 0 1) cfg.revCombMix

end

end Sys2Proof.Config
end

