-- ==== Sys2Proof/Machine/Elementary.lean ====
section
/-! DEFINITION. `SIN`, `TAN`, `TANH` and `POW`: the real functions rounded to `NUM` (R6), computed in fixed point with
320 fraction bits and rounded once (log 3). What they give outside the domain of the real function is free (log 5). -/

namespace Sys2Proof

/-! ## Fixed-point values with 320 fraction bits -/

def fixBits : Nat := 320

def fixOne : Nat := 1 <<< fixBits

def fixMul (a b : Nat) : Nat := (a * b) >>> fixBits

/-- pi/2, truncated. -/
def fixHalfPi : Nat := 0x1921FB54442D18469898CC51701B839A252049C1114CF98E804177D4C76273644A29410F31C6809BB

/-- ln 2, truncated. -/
def fixLn2 : Nat := 0xB17217F7D1CF79ABC9E3B39803F2F6AF40F343267298B62D8A0D175B8BAAFA2BE7B876206DEBAC98

/-- The magnitude of a finite word in fixed point; exact. -/
def fixOf (x : NUM) : Nat := x.unitsAbs <<< (fixBits - 149)

/-- The word nearest to a signed fixed-point quotient. -/
def roundFix (neg : Bool) (n d : Nat) : NUM := NUM.ofMag neg (NUM.roundMag (n <<< 149) d)

/-! ## Sine and tangent -/

/-- `1 - r2/(2·3)·(1 - r2/(4·5)·(..))`, the Taylor series of `sin r / r` in Horner form. -/
def sinSeries (r2 : Nat) : Nat → Nat → Nat
  | 0, acc => acc
  | n + 1, acc => sinSeries r2 n (fixOne - fixMul r2 acc / ((2 * n + 2) * (2 * n + 3)))

/-- `1 - r2/(1·2)·(1 - r2/(3·4)·(..))`, the Taylor series of `cos r` in Horner form. -/
def cosSeries (r2 : Nat) : Nat → Nat → Nat
  | 0, acc => acc
  | n + 1, acc => cosSeries r2 n (fixOne - fixMul r2 acc / ((2 * n + 1) * (2 * n + 2)))

/-- `sin r` for `r` in [0, pi/2). -/
def fixSin (r : Nat) : Nat := fixMul r (sinSeries (fixMul r r) 40 fixOne)

/-- `cos r` for `r` in [0, pi/2). -/
def fixCos (r : Nat) : Nat := cosSeries (fixMul r r) 40 fixOne

/-- The number of whole quarter turns in `|x|`. -/
def quarterTurns (x : NUM) : Nat := fixOf x / fixHalfPi

/-- What is left of `|x|` after the whole quarter turns. -/
def quarterRest (x : NUM) : Nat := fixOf x % fixHalfPi

/-- `SIN(x)`. -/
@[irreducible] def NUM.sin (x : NUM) : NUM :=
  if x.isFinite then
    roundFix (x.sign != Nat.ble 2 (quarterTurns x % 4))
      (if quarterTurns x % 2 = 0 then fixSin (quarterRest x) else fixCos (quarterRest x)) fixOne
  else NUM.nan .sin x x

/-- `TAN(x)`. -/
@[irreducible] def NUM.tan (x : NUM) : NUM :=
  if x.isFinite then
    (if quarterTurns x % 2 = 0 then roundFix x.sign (fixSin (quarterRest x)) (fixCos (quarterRest x))
     else roundFix (!x.sign) (fixCos (quarterRest x)) (fixSin (quarterRest x)))
  else NUM.nan .tan x x

/-! ## Exponential, hyperbolic tangent, logarithm, power -/

/-- `1 + r/1·(1 + r/2·(..))`, the Taylor series of `e^r` in Horner form. -/
def expSeries (r : Nat) : Nat → Nat → Nat
  | 0, acc => acc
  | n + 1, acc => expSeries r n (fixOne + fixMul r acc / (n + 1))

/-- `e^r` for `r` in [0, 1). -/
def fixExp (r : Nat) : Nat := expSeries r 72 fixOne

/-- `v` squared `n` times. -/
def fixSquares : Nat → Nat → Nat
  | 0, v => v
  | n + 1, v => fixSquares n (fixMul v v)

/-- `e^(2|x|)` for `|x| < 16`. -/
def fixExp2 (x : NUM) : Nat := fixSquares 6 (fixExp ((fixOf x <<< 1) >>> 6))

/-- `TANH(x) = (e^2x - 1)/(e^2x + 1)`. From `|x| = 16` on the nearest word is 1, the limit at the infinities. -/
@[irreducible] def NUM.tanh (x : NUM) : NUM :=
  if x.isNaN then NUM.nan .tanh x x
  else if Nat.ble 0x41800000 x.mag then NUM.ofMag x.sign 0x3F800000
  else roundFix x.sign (fixExp2 x - fixOne) (fixExp2 x + fixOne)

/-- `1 + z2/3 + z2^2/5 + ..`, the series of `artanh z / z` in Horner form. -/
def artanhSeries (z2 : Nat) : Nat → Nat → Nat
  | 0, acc => acc
  | n + 1, acc => artanhSeries z2 n (fixOne / (2 * n + 1) + fixMul z2 acc)

/-- `2·artanh((m - 1)/(m + 1)) = ln m` for a fixed-point `m` in [1, 2). -/
def fixLnOf (m : Nat) : Nat :=
  let z := ((m - fixOne) <<< fixBits) / (m + fixOne)
  2 * fixMul z (artanhSeries (fixMul z z) 112 0)

/-- `ln b` for a finite `b > 0`, from `b = 2^e·m`. -/
def fixLn (b : NUM) : Int :=
  let e := Nat.log2 b.unitsAbs
  ((e : Int) - 149) * (fixLn2 : Int) + (fixLnOf ((b.unitsAbs <<< fixBits) >>> e) : Int)

/-- `e^t` for a signed fixed-point `t`. The significand is first rounded to 200 bits, so that a power that is exactly
a `NUM` or exactly halfway between two is recognised. -/
def expToNum (t : Int) : NUM :=
  let k := t / (fixLn2 : Int)
  if 128 ≤ k then NUM.ofMag false NUM.infMag
  else if k < -151 then NUM.zero
  else
    let m := fixExp (t - k * (fixLn2 : Int)).toNat
    NUM.ofMag false (NUM.roundMag (((m + (1 <<< 119)) >>> 120) <<< (149 + (k + 151).toNat)) (1 <<< 351))

/-- `POW(b, y)` for a finite `b > 0` and a finite `y`, the only operands the rules use. -/
@[irreducible] def NUM.pow (b y : NUM) : NUM :=
  if b.isFinite && y.isFinite && NUM.zero.lt b then expToNum (y.units * fixLn b / ((1 <<< 149 : Nat) : Int))
  else NUM.nan .pow b y

end Sys2Proof
end

