-- ==== Sys2Proof/Machine/Generator.lean ====
section
/-! DEFINITION. The spec's default generator (R163, log 17). -/

namespace Sys2Proof

/-- `RNG_STEP(s) = (1664525·s + 1013904223) mod 2^32` (R163). -/
@[irreducible] def rngStep (s : BitVec 32) : BitVec 32 := 1013904223#32 + 1664525#32 * s

/-- `RNG_OUT(s) = floor(s / 256) / 16777216`, the top 24 bits as a fraction (R163). -/
@[irreducible] def rngOut (s : BitVec 32) : NUM := NUM.ofRat ((s.toNat / 256 : Nat) : Int) 16777216

end Sys2Proof
end

