-- ==== Sys2Proof/Machine/Reference.lean ====
section
/-! DEFINITION. The spec's REFERENCE CONFIGURATION: every CHOSEN parameter at its default, `PARAM_DEFAULT` as
log 10 says, `MAX_FRAMES` free (log 12). `exec`, `step` and `State.reset` are the block in it; `execIn`, `stepIn` and `State.Of.powerOn` are the block in
any configuration (R7, log 1). -/

namespace Sys2Proof.Config

/-- The reference configuration (R6, R7). -/
def reference : Parameters NUM where
  toFormat := binary32
  nParams := 19
  sr := NUM.ofNat 48000
  sin := NUM.sin
  tan := NUM.tan
  tanh := NUM.tanh
  pow := NUM.pow
  rngStep := Sys2Proof.rngStep
  rngOut := Sys2Proof.rngOut
  noiseAmp := NUM.ofRat 1 10000
  engineGain := fun _ => NUM.one
  engineSeed := fun k => BitVec.ofNat 32 (0x5EED0000 + k)
  lfoSeed := 0x5EED00FF#32
  selOorPolicy := .clamp
  resetOnSelect := false
  resetOnNoteOn := false
  fxSat := true
  sigMax := NUM.ofNat 16
  silenceThresh := NUM.ofRat 1 10000
  envTMax := NUM.ofNat 100
  maxFrames := maxFramesOpen
  engineBody := {}
  paramDefault := fun _ => NUM.zero
  incMax := NUM.ofRat 1 2
  brightMin := NUM.ofRat 2 10
  sineH2 := NUM.ofRat 5 10
  sineH3 := NUM.ofRat 25 100
  sinePm := NUM.one
  triLeak := NUM.ofRat 1 1000
  sqPwSpan := NUM.ofRat 4 10
  ssDet := [NUM.ofInt (-1), NUM.ofRat (-75) 100, NUM.ofRat (-50) 100, NUM.ofRat (-25) 100, NUM.zero, NUM.ofRat 25 100,
    NUM.ofRat 50 100, NUM.ofRat 75 100, NUM.one]
  ssPan := [NUM.zero, NUM.ofRat 1 8, NUM.ofRat 2 8, NUM.ofRat 3 8, NUM.ofRat 4 8, NUM.ofRat 5 8, NUM.ofRat 6 8,
    NUM.ofRat 7 8, NUM.one]
  ssDetuneMax := NUM.ofRat 2 100
  ssNorm := NUM.ofRat 45 10
  ssSideMin := NUM.ofRat 25 100
  vaInt := [NUM.zero, NUM.ofNat 7, NUM.ofNat 12, NUM.ofNat 19, NUM.ofNat 24]
  fmRatioMin := NUM.one
  fmRatioMax := NUM.ofNat 4
  fmFbMax := NUM.one
  fmIndexMax := NUM.ofNat 4
  vowel := [[NUM.ofNat 730, NUM.ofNat 1090, NUM.ofNat 2440],
    [NUM.ofNat 530, NUM.ofNat 1840, NUM.ofNat 2480],
    [NUM.ofNat 270, NUM.ofNat 2290, NUM.ofNat 3010],
    [NUM.ofNat 570, NUM.ofNat 840, NUM.ofNat 2410],
    [NUM.ofNat 300, NUM.ofNat 870, NUM.ofNat 2240]]
  formantAmp := [[NUM.one, NUM.ofRat 50 100, NUM.ofRat 25 100],
    [NUM.one, NUM.ofRat 35 100, NUM.ofRat 25 100],
    [NUM.one, NUM.ofRat 25 100, NUM.ofRat 20 100],
    [NUM.one, NUM.ofRat 45 100, NUM.ofRat 10 100],
    [NUM.one, NUM.ofRat 35 100, NUM.ofRat 10 100]]
  formantPw := NUM.ofRat 1 10
  formantQMin := NUM.ofNat 5
  formantQMax := NUM.ofNat 20
  formantFMax := NUM.ofRat 45 100
  addDetune := NUM.ofRat 2 1000
  chordTab := [[NUM.zero, NUM.zero, NUM.ofNat 12, NUM.ofNat 12],
    [NUM.zero, NUM.ofNat 7, NUM.ofNat 7, NUM.ofNat 12],
    [NUM.zero, NUM.ofNat 5, NUM.ofNat 7, NUM.ofNat 12],
    [NUM.zero, NUM.ofNat 3, NUM.ofNat 7, NUM.ofNat 12],
    [NUM.zero, NUM.ofNat 3, NUM.ofNat 7, NUM.ofNat 10],
    [NUM.zero, NUM.ofNat 3, NUM.ofNat 10, NUM.ofNat 14],
    [NUM.zero, NUM.ofNat 4, NUM.ofNat 7, NUM.ofNat 11],
    [NUM.zero, NUM.ofNat 4, NUM.ofNat 7, NUM.ofNat 12]]
  chordDet := [NUM.ofRat (-15) 10000, NUM.ofRat 15 10000, NUM.ofRat (-7) 10000, NUM.ofRat 7 10000]
  strCap := 2048
  strDetune := NUM.ofRat 6 1000
  strFb := NUM.ofRat 996 1000
  strDampMin := NUM.ofRat 2 10
  strDampSpan := NUM.ofRat 79 100
  strApG := NUM.ofRat 5 10
  strExc := NUM.ofRat 1 10
  strBowA := NUM.ofRat 5 100
  strBowGain := NUM.ofNat 4
  strStrikePeriod := 12000
  strPosMin := NUM.ofRat 1 10
  pwmPwSpan := NUM.ofRat 35 100
  pwmDriftPeriod := 4800
  pwmDriftSlew := NUM.ofRat 5 10000
  pwmDriftPw := NUM.ofRat 1 10
  pwmDepthMin := NUM.ofRat 25 100
  pwmDriftPh := NUM.ofRat 2 100
  pwmSpread := NUM.ofRat 1 100
  pwmDcR := NUM.ofRat 995 1000
  fcMin := NUM.ofNat 20
  fcMaxRatio := NUM.ofRat 45 100
  resMax := NUM.ofRat 99 100
  dlyDamp := NUM.ofRat 4 10
  choCap := 107 * 48000 / 1000
  choBase := NUM.ofRat 20 1000
  revCombLenL := [1103, 1201, 1301, 1409]
  revCombLenR := [1123, 1223, 1321, 1429]
  revApLenL := [557, 223]
  revApLenR := [569, 241]
  revCombMix := NUM.ofRat 25 100

/-- The reference configuration with `MAX_FRAMES`, which has no default (R6), at `maxFrames`. No meaning reads it: `exec` and
`step` are the block for each (log 12; Laws/MaxFrames.lean, `execIn_referenceAt`). -/
def referenceAt (maxFrames : BitVec 32) : Parameters NUM := reference.withMaxFrames maxFrames

end Sys2Proof.Config
end

