-- ==== Sys2Proof/Machine/Rng.lean ====
section
/-! DEFINITION. The draws a reset makes (R43, R47), with the generator of the configuration (R163). -/

namespace Sys2Proof

variable {N : Type}

/-- `2·d - 1` for a drawn value `d`. -/
def bipolar (cfg : Config.Parameters N) (d : N) : N := cfg.sub (cfg.mul cfg.two d) cfg.one

/-- `2·draw - 1` for the draw whose new seed is `s`. -/
def rngBipolar (cfg : Config.Parameters N) (s : BitVec 32) : N := bipolar cfg (cfg.rngOut s)

/-- The seed after `n` draws. -/
def rngSkip (cfg : Config.Parameters N) : Nat → BitVec 32 → BitVec 32
  | 0, s => s
  | n + 1, s => rngSkip cfg n (cfg.rngStep s)

/-- `n` draws in order, as written to phases (R231). -/
def drawPhases (cfg : Config.Parameters N) : Nat → BitVec 32 → List N
  | 0, _ => []
  | n + 1, s => cfg.ftz (cfg.rngOut (cfg.rngStep s)) :: drawPhases cfg n (cfg.rngStep s)

/-- The detune of one partial, `1 + ADD_DETUNE·(2·draw - 1)`, for the draw whose new seed is `s` (R251). -/
def partialDetune (cfg : Config.Parameters N) (s : BitVec 32) : N :=
  cfg.ftz (cfg.add cfg.one (cfg.mul cfg.addDetune (rngBipolar cfg s)))

/-- The detunes of `n` partials; each partial makes two draws, its detune first (R251). -/
def drawDetunes (cfg : Config.Parameters N) : Nat → BitVec 32 → List N
  | 0, _ => []
  | n + 1, s => partialDetune cfg (cfg.rngStep s) :: drawDetunes cfg n (cfg.rngStep (cfg.rngStep s))

/-- The phases of `n` partials; each partial makes two draws, its phase second (R251). -/
def drawPartialPhases (cfg : Config.Parameters N) : Nat → BitVec 32 → List N
  | 0, _ => []
  | n + 1, s =>
    cfg.ftz (cfg.rngOut (cfg.rngStep (cfg.rngStep s))) :: drawPartialPhases cfg n (cfg.rngStep (cfg.rngStep s))

theorem drawPhases_length (cfg : Config.Parameters N) (n : Nat) (s : BitVec 32) : (drawPhases cfg n s).length = n := by
  induction n generalizing s with
  | zero => rfl
  | succ n ih => simp [drawPhases, ih]

theorem drawDetunes_length (cfg : Config.Parameters N) (n : Nat) (s : BitVec 32) : (drawDetunes cfg n s).length = n :=
  by
  induction n generalizing s with
  | zero => rfl
  | succ n ih => simp [drawDetunes, ih]

theorem drawPartialPhases_length (cfg : Config.Parameters N) (n : Nat) (s : BitVec 32) :
    (drawPartialPhases cfg n s).length = n := by
  induction n generalizing s with
  | zero => rfl
  | succ n ih => simp [drawPartialPhases, ih]

end Sys2Proof
end

