-- ==== Sys2Proof/Machine/State.lean ====
section
/-! DEFINITION. The state of the block (10_state.md) as plain data, the ports, and the state after power-on (R571,
R572). A register's reset value is the one its rule gives; logs 10, 11 and 32 name what the spec leaves open. -/

namespace Sys2Proof.Machine

variable {N : Type}

/-! ## Enumerations (R130 to R132) -/

/-- The engine index `k` (R130), 0 to 11 in this order. -/
inductive Engine where
  | sine | triangle | square | saw | supersaw | virtualAnalog | fm | formant | additive | chord | pluckedString | pwm
  deriving DecidableEq, Repr

/-- `LFO.wave` (R131), 0 to 4 in this order. -/
inductive LfoWave where
  | sine | triangle | square | stepped | steppedRandom
  deriving DecidableEq, Repr

/-- `ADSR.st` (R132), 0 to 4 in this order. -/
inductive AdsrStage where
  | idle | attack | decay | sustain | release
  deriving DecidableEq, Repr

/-- `AD.st` (R132), 0 to 2 in this order. -/
inductive AdStage where
  | idle | attack | decay
  deriving DecidableEq, Repr

/-! ## Modulators, filter, effects -/

/-- ADSR (R51). -/
structure Adsr (N : Type) where
  st : AdsrStage
  level : N
  sr : N
  a : N
  d : N
  s : N
  r : N
  deriving DecidableEq, Repr

/-- AD (R52). -/
structure Ad (N : Type) where
  st : AdStage
  level : N
  sr : N
  a : N
  d : N
  deriving DecidableEq, Repr

/-- LFO (R53); `variation` is `LFO.var`. -/
structure Lfo (N : Type) where
  ph : N
  rnd : N
  seed : BitVec 32
  sr : N
  freq : N
  wave : LfoWave
  variation : N
  deriving DecidableEq, Repr

/-- FLT (R54): `s[c][0..3]`. -/
structure Ladder (N : Type) where
  s : Stereo (Bank 4 N)
  sr : N
  fc : N
  res : N
  wet : N
  deriving DecidableEq, Repr

/-- One channel of DLY (R55). -/
structure DelayChannel (N : Type) where
  buf : Memory N
  w : Nat
  lp : N
  deriving DecidableEq, Repr

/-- DLY (R55). -/
structure Delay (N : Type) where
  ch : Stereo (DelayChannel N)
  amount : N
  deriving DecidableEq, Repr

/-- One channel of CHO (R56): `phi[0..2]`. -/
structure ChorusChannel (N : Type) where
  buf : Memory N
  w : Nat
  phi : Bank 3 N
  deriving DecidableEq, Repr

/-- CHO (R56). -/
structure Chorus (N : Type) where
  ch : Stereo (ChorusChannel N)
  amount : N
  deriving DecidableEq, Repr

/-- One channel of REV (R57): four combs and two allpasses. -/
structure ReverbChannel (N : Type) where
  comb0 : Line N
  comb1 : Line N
  comb2 : Line N
  comb3 : Line N
  ap0 : Line N
  ap1 : Line N
  deriving DecidableEq, Repr

/-- REV (R57). -/
structure Reverb (N : Type) where
  ch : Stereo (ReverbChannel N)
  amount : N
  deriving DecidableEq, Repr

/-! ## Pipeline -/

/-- `PL[0..18]`, the sanitised copy of the parameters of the last block (R33, R490). -/
structure Latch (N : Type) where
  sel : Engine
  harm : N
  timb : N
  morph : N
  freq : N
  level : N
  attack : N
  decay : N
  sustain : N
  release : N
  lfoFreq : N
  lfoWave : LfoWave
  lfoVar : N
  reverb : N
  delay : N
  chorus : N
  cutoff : N
  resonance : N
  wet : N
  deriving DecidableEq, Repr

/-- PIPE: `P[0..18]` (R31), `PL` (R33), note state (R34), flags (R35). -/
structure Pipe (N : Type) where
  p : Bank 19 N
  pl : Latch N
  heldNote : BitVec 7
  noteFreq : N
  gate : Bool
  hasNote : Bool
  wasSilent : Bool
  selPrev : BitVec 4
  adLevel : N
  deriving DecidableEq, Repr

/-! ## The block -/

/-- The state of the block (R30) and of its ports. `cmds`, `responses` and `audio` are the model's own fields (logs 13,
14): the command words issued and not yet taken, the response words returned and the frames emitted, oldest first. -/
structure State.Of (N : Type) where
  e0 : SineOsc N
  e1 : TriangleOsc N
  e2 : SquareOsc N
  e3 : SawOsc N
  e4 : SupersawBank N
  e5 : VirtualAnalog N
  e6 : FmPair N
  e7 : FormantFilter N
  e8 : AdditiveBank N
  e9 : ChordStack N
  e10 : PluckedString N
  e11 : PwmOsc N
  adsr : Adsr N
  ad : Ad N
  lfo : Lfo N
  flt : Ladder N
  dly : Delay N
  cho : Chorus N
  rev : Reverb N
  pipe : Pipe N
  cmds : List CommandWord
  responses : List ResponseWord
  audio : List Frame
  deriving DecidableEq, Repr

/-- The state in the reference number format (R7, log 1). -/
abbrev State := State.Of NUM

/-- Why the machine stops with a fault: never. No operation of the block raises an exception or fails to complete
(R540, R544), every buffer index wraps (R82) and every input clamps (R541), so the type has no constructor (log 23). -/
inductive Fault where
  deriving DecidableEq, Repr

/-- Why an instruction has no meaning. -/
inductive Refusal where
  /-- Raised by `exec` for an operation of the table that has no meaning yet; no operation is left in that case. Safe:
  the model stops where the hardware goes on. -/
  | notModelled (mnemonic : String)
  deriving DecidableEq, Repr

/-! ## Power-on (R571, R572) -/

/-- The control fields of engine `k` after a full reset, before the engine's own reset draws (R38). -/
def EngineRegs.powerOn (cfg : Config.Parameters N) (k : Nat) : EngineRegs N :=
  { sr := cfg.sr, freq := cfg.zero, harm := cfg.zero, timb := cfg.zero, morph := cfg.zero, level := cfg.one,
    seed := cfg.engineSeed k }

def ReverbChannel.clear : ReverbChannel N :=
  ⟨Line.clear, Line.clear, Line.clear, Line.clear, Line.clear, Line.clear⟩

/-- One channel of CHO after a reset: phases at `CHO_PHASE0` (R56, R448).
DESIGN CHOICE (log 32): the reset values of R571 are written as they stand, where R12 would flush one below `DENORM_MIN`. -/
def ChorusChannel.clear (cfg : Config.Parameters N) : ChorusChannel N := ⟨[], 0, ⟨cfg.choPhase0, rfl⟩⟩

def PwmChannel.clear (cfg : Config.Parameters N) : PwmChannel N := ⟨cfg.zero, cfg.zero, cfg.zero, cfg.zero, cfg.zero⟩

/-- `PL` before the first block: a DESIGN CHOICE, the spec does not define it (R33, log 11). -/
def Latch.undefinedAtReset (cfg : Config.Parameters N) : Latch N :=
  { sel := .sine, harm := cfg.zero, timb := cfg.zero, morph := cfg.zero, freq := cfg.zero, level := cfg.zero,
    attack := cfg.zero, decay := cfg.zero, sustain := cfg.zero, release := cfg.zero, lfoFreq := cfg.zero,
    lfoWave := .sine, lfoVar := cfg.zero, reverb := cfg.zero, delay := cfg.zero, chorus := cfg.zero,
    cutoff := cfg.zero, resonance := cfg.zero, wet := cfg.zero }

/-- `P[i] = PARAM_DEFAULT[i]` (R31, log 10). -/
def Pipe.defaultParams (cfg : Config.Parameters N) : Bank 19 N := ⟨(List.range 19).map cfg.paramDefault, by simp⟩

/-- A block right after power-on in the configuration `cfg`: a full reset (R570, R571) with `P` at its defaults (R572).
No command is pending and nothing has been returned or emitted.
DESIGN CHOICE (log 32): R571 gives the non-zero values `SR`, 1.0, `FC_MIN` and `CHO_PHASE0` themselves, and they are written
unflushed, where R12 applies `ftz` to every write. The two differ only in a configuration in which one of them is below
`DENORM_MIN`, such as a denormal `FC_MIN`.
DESIGN CHOICE (log 33): `FLT.fc` is `FC_MIN` (R571) in every configuration, also in one with `FC_MAX_RATIO·SR < FC_MIN` (`SR`
below 44.4 Hz at the defaults), where R402's range is empty: from reset `fc` is then above `FC_MAX_RATIO·SR`, and `g` and `G`
are outside R403's bounds. -/
def State.Of.powerOn (cfg : Config.Parameters N) : State.Of N :=
  { e0 := { regs := EngineRegs.powerOn cfg 0, ph := cfg.zero }
    e1 := { regs := EngineRegs.powerOn cfg 1, ph := cfg.zero, integ := cfg.zero, lp := cfg.zero }
    e2 := { regs := EngineRegs.powerOn cfg 2, ph := cfg.zero, lp := cfg.zero }
    e3 := { regs := EngineRegs.powerOn cfg 3, ph := cfg.zero, lp := cfg.zero }
    e4 := { regs := { EngineRegs.powerOn cfg 4 with seed := rngSkip cfg 9 (cfg.engineSeed 4) }
            ph := ⟨drawPhases cfg 9 (cfg.engineSeed 4), drawPhases_length cfg 9 _⟩ }
    e5 := { regs := EngineRegs.powerOn cfg 5, phA := cfg.zero, phB := cfg.zero }
    e6 := { regs := EngineRegs.powerOn cfg 6, phC := cfg.zero, phM := cfg.zero, fbz := cfg.zero, env := cfg.zero,
            cnt := 0 }
    e7 := { regs := EngineRegs.powerOn cfg 7, ph := cfg.zero, ic1 := Bank.fill 3 cfg.zero, ic2 := Bank.fill 3 cfg.zero }
    e8 := { regs := { EngineRegs.powerOn cfg 8 with seed := rngSkip cfg 32 (cfg.engineSeed 8) }
            ph := ⟨drawPartialPhases cfg 16 (cfg.engineSeed 8), drawPartialPhases_length cfg 16 _⟩
            det := ⟨drawDetunes cfg 16 (cfg.engineSeed 8), drawDetunes_length cfg 16 _⟩ }
    e9 := { regs := EngineRegs.powerOn cfg 9, ph := Bank.fill 4 cfg.zero }
    e10 := { regs := EngineRegs.powerOn cfg 10, bufA := [], bufB := [], w := 0, lpA := cfg.zero, lpB := cfg.zero,
             apz := cfg.zero, bow := cfg.zero, excnt := 0 }
    e11 := { regs := EngineRegs.powerOn cfg 11, ch := ⟨PwmChannel.clear cfg, PwmChannel.clear cfg⟩, dcnt := 0 }
    adsr := { st := .idle, level := cfg.zero, sr := cfg.sr, a := cfg.zero, d := cfg.zero, s := cfg.zero,
              r := cfg.zero }
    ad := { st := .idle, level := cfg.zero, sr := cfg.sr, a := cfg.zero, d := cfg.zero }
    lfo := { ph := cfg.zero, rnd := cfg.zero, seed := cfg.lfoSeed, sr := cfg.sr, freq := cfg.zero, wave := .sine,
             variation := cfg.zero }
    flt := { s := ⟨Bank.fill 4 cfg.zero, Bank.fill 4 cfg.zero⟩, sr := cfg.sr, fc := cfg.fcMin, res := cfg.zero,
             wet := cfg.zero }
    dly := { ch := ⟨⟨[], 0, cfg.zero⟩, ⟨[], 0, cfg.zero⟩⟩, amount := cfg.zero }
    cho := { ch := ⟨ChorusChannel.clear cfg, ChorusChannel.clear cfg⟩, amount := cfg.zero }
    rev := { ch := ⟨ReverbChannel.clear, ReverbChannel.clear⟩, amount := cfg.zero }
    pipe := { p := Pipe.defaultParams cfg, pl := Latch.undefinedAtReset cfg, heldNote := 0#7, noteFreq := cfg.zero,
              gate := false, hasNote := false, wasSilent := true, selPrev := 15#4, adLevel := cfg.zero }
    cmds := []
    responses := []
    audio := [] }

/-- The machine right after reset: power-on in the reference configuration (R7, R572). -/
def State.reset : State := State.Of.powerOn Config.reference

end Sys2Proof.Machine
end

