-- ==== Sys2Proof/Machine/Ops.lean ====
section
/-! DEFINITION. The shared operations over memory, banks, channels and ports.

There is no operation that takes an exception and none that returns from one: the block raises none, saves no state and
has no mode (R540, R544). What a processor would trap on is clamped where it enters (`san`), wrapped (`memRead`,
`memWrite`) or answered with `RW = 0` (Step.lean). -/

namespace Sys2Proof.Machine

variable {N : Type}

/-- What one operation answers. -/
abbrev ResultOf (N : Type) := Host.Outcome (State.Of N) Fault Refusal

/-- What one operation answers in the reference number format. -/
abbrev Result := ResultOf NUM

/-! ## Circular buffers (R81 to R84) -/

section
variable [DecidableEq N]

/-- The word at index `i`, +0.0 where none is listed (R85). -/
def memGet (m : Memory N) (i : Nat) (cfg : Config.Parameters N := by exact Sys2Proof.Config.reference) : N :=
  match m with
  | [] => cfg.zero
  | (k, v) :: t => if k = i then v else memGet t i cfg

/-- The buffer with `v` at index `i`, in canonical form: a +0.0 is not listed. -/
def memPut (m : Memory N) (i : Nat) (v : N) (cfg : Config.Parameters N := by exact Sys2Proof.Config.reference) : Memory N :=
  match m with
  | [] => if v = cfg.zero then [] else [(i, v)]
  | (k, w) :: t =>
    if i < k then (if v = cfg.zero then (k, w) :: t else (i, v) :: (k, w) :: t)
    else if i = k then (if v = cfg.zero then t else (i, v) :: t)
    else (k, w) :: memPut t i v cfg

/-- `i mod cap` in 0..cap-1, for an integer `i` of any sign (R10). -/
def wrapIndex (cap : Nat) (i : Int) : Nat := (i % (cap : Int)).toNat

/-- `MemRead(buf, i)` (R82). -/
def memRead (cap : Nat) (m : Memory N) (i : Int) (cfg : Config.Parameters N := by exact Sys2Proof.Config.reference) : N :=
  memGet m (wrapIndex cap i) cfg

/-- `MemWrite(buf, i, v)`: stores `ftz(v)` (R83). -/
def memWrite (cap : Nat) (m : Memory N) (i : Int) (v : N) (cfg : Config.Parameters N := by exact Sys2Proof.Config.reference) :
    Memory N :=
  memPut m (wrapIndex cap i) (cfg.ftz v) cfg

/-- `w <- (w + 1) mod cap` (R84). -/
def cursorNext (cap w : Nat) : Nat := (w + 1) % cap

/-- The canonical form of the words from index `lo` up, in a buffer of `cap` words. -/
def memWfFrom (cap lo : Nat) (m : Memory N) (cfg : Config.Parameters N := by exact Sys2Proof.Config.reference) : Bool :=
  match m with
  | [] => true
  | (k, v) :: t => Nat.ble lo k && Nat.blt k cap && !decide (v = cfg.zero) && memWfFrom cap (k + 1) t cfg

/-- The canonical form of a buffer of `cap` words: indices strictly rising and below `cap`, no listed +0.0. -/
def Memory.wf (cap : Nat) (m : Memory N) (cfg : Config.Parameters N := by exact Sys2Proof.Config.reference) : Bool :=
  memWfFrom cap 0 m cfg

end

/-! ## Banks -/

/-- Apply `f` to every word and its position, counting from `i`. -/
def mapFrom (f : Nat → N → N) : Nat → List N → List N
  | _, [] => []
  | i, v :: t => f i v :: mapFrom f (i + 1) t

theorem mapFrom_length (f : Nat → N → N) (i : Nat) (l : List N) : (mapFrom f i l).length = l.length := by
  induction l generalizing i with
  | nil => rfl
  | cons v t ih => simp [mapFrom, ih]

/-- Word `i` of a bank. -/
def bankGet {n : Nat} (b : Bank n N) (i : Nat) (cfg : Config.Parameters N := by exact Sys2Proof.Config.reference) : N :=
  b.words.getD i cfg.zero

/-- The bank with word `i` replaced; unchanged when there is no word `i`. -/
def bankSet {n : Nat} (b : Bank n N) (i : Nat) (v : N) : Bank n N := ⟨b.words.set i v, by simp [b.len]⟩

/-- Every word replaced by `f` of its position and itself. -/
def bankMap {n : Nat} (f : Nat → N → N) (b : Bank n N) : Bank n N :=
  ⟨mapFrom f 0 b.words, by simp [mapFrom_length, b.len]⟩

/-- Entry `i` of a constant table. -/
def tableAt (t : List N) (i : Nat) (cfg : Config.Parameters N := by exact Sys2Proof.Config.reference) : N := t.getD i cfg.zero

/-- Entry `i`, `j` of a constant table of rows. -/
def tableAt2 (t : List (List N)) (i j : Nat) (cfg : Config.Parameters N := by exact Sys2Proof.Config.reference) : N :=
  tableAt (t.getD i []) j cfg

/-! ## Channels -/

/-- A channel `c` (R115). -/
inductive Chan where
  | left
  | right
  deriving DecidableEq, Repr

def stereoGet {α : Type} (x : Stereo α) : Chan → α
  | .left => x.l
  | .right => x.r

def stereoSet {α : Type} (x : Stereo α) (c : Chan) (v : α) : Stereo α :=
  match c with
  | .left => { x with l := v }
  | .right => { x with r := v }

/-! ## Ports (R110, R116, R117) -/

/-- Return the response word `{hi, lo}` (R116). -/
def State.Of.respond (s : State.Of N) (hi lo : BitVec 32) : State.Of N :=
  { s with responses := s.responses ++ [wordPair hi lo] }

/-- Emit one frame `{right, left}` on the audio port (R117). -/
def State.Of.emit (s : State.Of N) (y : Stereo N) (cfg : Config.Parameters N :=
  by exact Sys2Proof.Config.reference) : State.Of N :=
  { s with audio := s.audio ++ [wordPair (cfg.word y.r) (cfg.word y.l)] }

/-- The operation is complete and returns `RW = 0`. -/
def done (s : State.Of N) : ResultOf N := .next (s.respond 0#32 0#32)

/-- The operation is complete and returns one value in `RW[31:0]`. -/
def doneWith (s : State.Of N) (y : N) (cfg : Config.Parameters N := by exact Sys2Proof.Config.reference) : ResultOf N :=
  .next (s.respond 0#32 (cfg.word y))

/-- The operation is complete and returns a stereo sample, left in `RW[31:0]`. -/
def doneWithPair (s : State.Of N) (y : Stereo N) (cfg : Config.Parameters N :=
  by exact Sys2Proof.Config.reference) : ResultOf N :=
  .next (s.respond (cfg.word y.r) (cfg.word y.l))

/-- Take the first pending command word off the port, if there is one (R110). -/
def State.Of.takeCommand (s : State.Of N) : Option (CommandWord × State.Of N) :=
  match s.cmds with
  | [] => none
  | cw :: rest => some (cw, { s with cmds := rest })

end Sys2Proof.Machine
end

