-- ==== Sys2Proof/Machine/Operands.lean ====
section
/-! DEFINITION. The operand forms of the command word (R114, R115). -/

namespace Sys2Proof.Machine

variable {N : Type} [DecidableEq N]

/-- `v = num(DATA)` in the reference number format: the 32 bits, unchanged (R114). In any format it is `cfg.num v`. -/
def numOf (v : Data) : NUM := Config.reference.num v

/-- `n`: `DATA` as an unsigned 32-bit count (R114). -/
def countOf (n : Data) : Nat := n.toNat

/-- `i`: `IDX` as an unsigned 16-bit parameter index (R115). -/
def paramIndexOf (i : Idx) : Nat := i.toNat

/-- The note number `IDX[6:0]` (R115). -/
def noteOf (note : Idx) : BitVec 7 := note.extractLsb' 0 7

/-- The velocity `DATA[6:0]` (R114). -/
def velocityOf (vel : Data) : BitVec 7 := vel.extractLsb' 0 7

/-- The channel `IDX[0]`: 0 left, 1 right (R115). -/
def chanOf (c : Idx) : Chan := if c.getLsbD 0 then .right else .left

/-- A sample that enters a unit through the command port: `san(v, -SIG_MAX, SIG_MAX)` (R13, R408). -/
def sampleOf (cfg : Config.Parameters N) (v : Data) : N := cfg.san (cfg.num v) (cfg.neg cfg.sigMax) cfg.sigMax

end Sys2Proof.Machine
end

