-- ==== Sys2Proof/Machine/Flags.lean ====
section
/-! DEFINITION. The status bits and codes a rule can read (R37) and what computes them. The block has no arithmetic
flags. -/

namespace Sys2Proof.Machine

variable {N : Type} [DecidableEq N]

/-! ## Codes (R130 to R132) -/

/-- `k` (R130). -/
def Engine.index : Engine → Nat
  | .sine => 0
  | .triangle => 1
  | .square => 2
  | .saw => 3
  | .supersaw => 4
  | .virtualAnalog => 5
  | .fm => 6
  | .formant => 7
  | .additive => 8
  | .chord => 9
  | .pluckedString => 10
  | .pwm => 11

/-- The engine of index `k`, the last one for a greater number. -/
def engineOfIndex : Nat → Engine
  | 0 => .sine
  | 1 => .triangle
  | 2 => .square
  | 3 => .saw
  | 4 => .supersaw
  | 5 => .virtualAnalog
  | 6 => .fm
  | 7 => .formant
  | 8 => .additive
  | 9 => .chord
  | 10 => .pluckedString
  | _ => .pwm

/-- The 3-bit code of `LFO.wave` (R131). -/
def LfoWave.code : LfoWave → Nat
  | .sine => 0
  | .triangle => 1
  | .square => 2
  | .stepped => 3
  | .steppedRandom => 4

/-- The waveform of a code, the last one for a greater number. -/
def waveOfCode : Nat → LfoWave
  | 0 => .sine
  | 1 => .triangle
  | 2 => .square
  | 3 => .stepped
  | _ => .steppedRandom

/-- The 3-bit code of `ADSR.st` (R132). -/
def AdsrStage.code : AdsrStage → Nat
  | .idle => 0
  | .attack => 1
  | .decay => 2
  | .sustain => 3
  | .release => 4

/-- The 2-bit code of `AD.st` (R132). -/
def AdStage.code : AdStage → Nat
  | .idle => 0
  | .attack => 1
  | .decay => 2

/-! ## Integer clamps and the selector -/

/-- `clamp(v, lo, hi)` on integers (R10). -/
def clampInt (v lo hi : Int) : Int := min (max v lo) hi

/-- `sel(v)` (R503): NaN, the explicit clamp to zero on [-0.5, 0.5), below the range, above the range, and in between
the nearest integer with halves rounded up. -/
def sel (cfg : Config.Parameters N) (v : N) : Engine :=
  if cfg.isNaN v then .sine
  else if cfg.le (cfg.ofRat (-1) 2) v && cfg.lt v (cfg.ofRat 1 2) then .sine
  else if cfg.lt v (cfg.ofRat (-1) 2) then .sine
  else if cfg.le (cfg.ofRat 23 2) v then
    (match cfg.selOorPolicy with
      | .clamp => .pwm
      | .zero => .sine)
  else engineOfIndex (cfg.round v).toNat

/-- `clamp(round(san(v, 0, 4)), 0, 4)` as a waveform (R385, R490). -/
def waveOf (cfg : Config.Parameters N) (v : N) : LfoWave :=
  waveOfCode (clampInt (cfg.round (cfg.san v cfg.zero (cfg.ofNat 4))) 0 4).toNat

/-! ## Pipeline flags -/

/-- `silent = (env < SILENCE_THRESH)` (R507). -/
def isSilent (cfg : Config.Parameters N) (env : N) : Bool := cfg.lt env cfg.silenceThresh

/-- The silence-to-active edge (R507): silent at the previous tick and not now. -/
def silenceEdge (cfg : Config.Parameters N) (wasSilent : Bool) (env : N) : Bool := wasSilent && !isSilent cfg env

/-- A note-off of `n` acts: the gate is on and `n` is the held note (R494). -/
def noteOffMatches (p : Pipe N) (n : BitVec 7) : Bool := p.gate && decide (n = p.heldNote)

/-- The selected engine changed since the previous tick; `sel_prev` = 15 matches none (R503, R35). -/
def engineChanged (p : Pipe N) (k : Engine) : Bool := !decide (BitVec.ofNat 4 k.index = p.selPrev)

end Sys2Proof.Machine
end

