-- ==== Sys2Proof/Machine/Contract.lean ====
section
/-! DEFINITION. What the twelve tone engines share: the numeric primitives and the seven operations of the contract on
the control fields (40_tone_engine_contract.md). -/

namespace Sys2Proof.Machine

variable {N : Type} [DecidableEq N]

/-! ## Primitives (R160 to R162) -/

/-- `inc(f, sr) = min(max(f, 0) / sr, INC_MAX)` (R160). -/
def inc (cfg : Config.Parameters N) (f sr : N) : N := cfg.min (cfg.div (cfg.max f cfg.zero) sr) cfg.incMax

/-- A phase after one sample: `wrap1(p + dt)`, as stored (R160, R12).
DESIGN CHOICE (log 28): `dt`, the sum and the wrap are rounded at every sample (R8). So the phase of sample n is not
exactly the `wrap1(n·freq/sr)` of R194: with `freq = 440` at 48000 Hz it is about 0.9997 at n = 48000, where the closed form
gives 0. And phases that share one `dt` do not keep their offsets exactly, where R235 says 'for ever'. A `dt` under half a
unit in the last place of the phase does not move it: below about 0.0014 Hz at 48000 Hz a phase of 0.5 or more stands
still, and one below 0.5 goes on to 0.5. -/
def phaseNext (cfg : Config.Parameters N) (p dt : N) : N := cfg.ftz (cfg.wrap1 (cfg.add p dt))

/-- `polyblep(t, dt)` (R161). -/
def polyblep (cfg : Config.Parameters N) (t dt : N) : N :=
  if cfg.le dt cfg.zero then cfg.zero
  else if cfg.lt t dt then
    let u := cfg.div t dt
    cfg.sub (cfg.sub (cfg.add u u) (cfg.mul u u)) cfg.one
  else if cfg.lt (cfg.sub cfg.one dt) t then
    let u := cfg.div (cfg.sub t cfg.one) dt
    cfg.add (cfg.add (cfg.add (cfg.mul u u) u) u) cfg.one
  else cfg.zero

/-- `blsaw(p, dt) = 2·p - 1 - polyblep(p, dt)` (R162). -/
def blsaw (cfg : Config.Parameters N) (p dt : N) : N :=
  cfg.sub (cfg.sub (cfg.mul cfg.two p) cfg.one) (polyblep cfg p dt)

/-- `blpulse(p, dt, pw)` (R162).
DESIGN CHOICE (log 26): `p + 1` is rounded like every sum (R8). For `p` just below `pw` it may round to `1 + pw`, and the
correction of the falling edge is then that of phase 0: with `pw = 0.5`, `p = 0.5 - 2^-25` gives 2, outside R162's range,
as it does in R204's example at sample 12. R215's [-1.8, 0.2] and R335's `|y| <= 2` rest on that range. -/
def blpulse (cfg : Config.Parameters N) (p dt pw : N) : N :=
  cfg.sub (cfg.add (if cfg.lt p pw then cfg.one else cfg.neg cfg.one) (polyblep cfg p dt))
    (polyblep cfg (cfg.wrap1 (cfg.sub (cfg.add p cfg.one) pw)) dt)

/-- `blsquare(p, dt) = blpulse(p, dt, 0.5)` (R162). -/
def blsquare (cfg : Config.Parameters N) (p dt : N) : N := blpulse cfg p dt (cfg.ofRat 1 2)

/-- `SIN(2·PI·p)`. -/
def sinTurn (cfg : Config.Parameters N) (p : N) : N := cfg.sin (cfg.mul cfg.twoPi p)

/-! ## Draws and the output stage (R163 to R167) -/

/-- `draw(u)`: the seed after the draw (R163). -/
def EngineRegs.drawn (cfg : Config.Parameters N) (r : EngineRegs N) : EngineRegs N :=
  { r with seed := cfg.rngStep r.seed }

/-- `noise(u) = NOISE_AMP·(2·draw(u) - 1)` (R164). -/
def EngineRegs.noise (cfg : Config.Parameters N) (r : EngineRegs N) : N :=
  cfg.mul cfg.noiseAmp (rngBipolar cfg (cfg.rngStep r.seed))

/-- One channel of the output stage: `level · ENGINE_GAIN[k] · SAT(x + n)` (R166).
DESIGN CHOICE (log 50): R170 asks for a denormal-free signal, and R12 gives it by flushing state writes; a sample returned is
no state write and is not flushed, so with a `level` near 2^-126 it can be a denormal. -/
def outLevel (cfg : Config.Parameters N) (k : Nat) (r : EngineRegs N) (x : N) : N :=
  cfg.mul (cfg.mul r.level (cfg.engineGain k)) (cfg.sat (cfg.add x (r.noise cfg)))

/-- `outstage(k, xL, xR)`: one draw, the same noise on both channels (R166). -/
def outstage (cfg : Config.Parameters N) (k : Nat) (r : EngineRegs N) (xL xR : N) : Stereo N × EngineRegs N :=
  (⟨outLevel cfg k r xL, outLevel cfg k r xR⟩, r.drawn cfg)

/-- The values the engine's generator gives next, the first one at 0 (R163). -/
def EngineRegs.draws (cfg : Config.Parameters N) (r : EngineRegs N) (i : Nat) : N := cfg.rngOut (rngSkip cfg (i + 1) r.seed)

/-- Step (3) of every `produceSample()` (R168): the seed moves past the values the body drew, and the output stage makes the
last draw. A body leaves the control fields as they are. -/
def finish {E : Type} (cfg : Config.Parameters N) (k : Nat) (r : EngineRegs N) (b : BodyStep E N) : Stereo N × EngineRegs N :=
  outstage cfg k { r with seed := rngSkip cfg b.draws r.seed } b.xL b.xR

/-- `bright(u, x)`: the new `lp`, which is also the value returned (R167).
DESIGN CHOICE (log 42): every operation is rounded (R8). At `harm = 1` the value is `lp + (x - lp)`, which need not be the `x`
that R167 says is returned (0 for `lp = 1`, `x = 2^-30`). For a constant `x` the state stands still an ulp or two short of it,
so at `freq = 0` E2 and E3 do not settle to quite the values of R215 and R225. -/
def bright (cfg : Config.Parameters N) (r : EngineRegs N) (lp x : N) : N :=
  let a := cfg.add cfg.brightMin (cfg.mul (cfg.sub cfg.one cfg.brightMin) r.harm)
  cfg.ftz (cfg.add lp (cfg.mul a (cfg.sub x lp)))

/-! ## Setters (R153 to R158) -/

/-- `setSampleRate(v)` (R153). -/
def EngineRegs.setSr (cfg : Config.Parameters N) (r : EngineRegs N) (v : N) : EngineRegs N :=
  if cfg.isRate v then { r with sr := cfg.ftz v } else r

/-- `setFrequency(v)` (R154). -/
def EngineRegs.setFreq (cfg : Config.Parameters N) (r : EngineRegs N) (v : N) : EngineRegs N :=
  { r with freq := cfg.ftz (cfg.san v cfg.zero (cfg.div r.sr cfg.two)) }

/-- `setHarmonics(v)` (R155). -/
def EngineRegs.setHarm (cfg : Config.Parameters N) (r : EngineRegs N) (v : N) : EngineRegs N :=
  { r with harm := cfg.ftz (cfg.sanUnit v) }

/-- `setTimbre(v)` (R156). -/
def EngineRegs.setTimb (cfg : Config.Parameters N) (r : EngineRegs N) (v : N) : EngineRegs N :=
  { r with timb := cfg.ftz (cfg.sanUnit v) }

/-- `setMorph(v)` (R157). -/
def EngineRegs.setMorph (cfg : Config.Parameters N) (r : EngineRegs N) (v : N) : EngineRegs N :=
  { r with morph := cfg.ftz (cfg.sanUnit v) }

/-- `setLevel(v)` (R158). -/
def EngineRegs.setLevel (cfg : Config.Parameters N) (r : EngineRegs N) (v : N) : EngineRegs N :=
  { r with level := cfg.ftz (cfg.sanUnit v) }

/-- The four setters the pipeline calls on the selected engine at every sample (R503). -/
def EngineRegs.program (cfg : Config.Parameters N) (r : EngineRegs N) (freq harm timb morph : N) : EngineRegs N :=
  (((r.setFreq cfg freq).setHarm cfg harm).setTimb cfg timb).setMorph cfg morph

end Sys2Proof.Machine
end

