-- ==== Sys2Proof/Machine/BasicEngines.lean ====
section
/-! DEFINITION. Tone engines 0 to 3 (41_basic_oscillators.md): the spec's reference bodies, which a
configuration may replace (R172). -/

namespace Sys2Proof.Machine

variable {N : Type} [DecidableEq N]

/-! ## E0 sine_osc_lut -/

/-- `E0.RESET` (R191). -/
def SineOsc.reset (cfg : Config.Parameters N) (e : SineOsc N) : SineOsc N := { e with ph := cfg.zero }

/-- The raw sample of E0 (R194).
DESIGN CHOICE (log 44): `2·PI` is rounded to `NUM` (R8), so at phase 0.5 the sine is about -8.74·10^-8, where R195 says that at
`freq = sr/2` it is 0 at both phases.
DESIGN CHOICE (log 46): R195 names the phases 0 and 0.5 there; after a change of frequency the phase alternates between two
others, and the model follows R194: at 0.25 and 0.75 the sine is 1 and -1.
DESIGN CHOICE (log 45): no premise bounds `SIN`, so in a configuration with another `SIN` the `|x| <= 1` of R194 is not assured. -/
def SineOsc.raw (cfg : Config.Parameters N) (e : SineOsc N) : N :=
  let th := cfg.mul cfg.twoPi e.ph
  let h := cfg.mul e.regs.harm cfg.sineH2
  let t := cfg.mul e.regs.timb cfg.sineH3
  let first := cfg.sin (cfg.add th (cfg.mul (cfg.mul e.regs.morph cfg.sinePm) (cfg.sin th)))
  let second := cfg.mul h (cfg.sin (cfg.mul cfg.two th))
  let third := cfg.mul t (cfg.sin (cfg.mul (cfg.ofNat 3) th))
  let x := cfg.add (cfg.add first second) third
  cfg.div x (cfg.add (cfg.add cfg.one h) t)

/-- The reference body of E0 (R194). -/
def SineOsc.body (cfg : Config.Parameters N) : EngineBody (SineOsc N) N := fun e _ =>
  { state := { e with ph := phaseNext cfg e.ph (inc cfg e.regs.freq e.regs.sr) }
    draws := 0, xL := e.raw cfg, xR := e.raw cfg }

/-- `E0.PRODUCE`: one call of `ENGINE_BODY[0]`, which is `SineOsc.body` unless the configuration replaces it, then the output
stage (R168, R172). -/
def SineOsc.produce (cfg : Config.Parameters N) (e : SineOsc N) : Stereo N × SineOsc N :=
  let b := (cfg.engineBody.sine.getD (SineOsc.body cfg)) e (e.regs.draws cfg)
  let out := finish cfg 0 e.regs b
  (out.1, { b.state with regs := out.2 })

/-! ### The operations of E0 -/

/-- `E0.RESET` (R191). -/
def execE0Reset (s : State.Of N) (cfg : Config.Parameters N := by exact Sys2Proof.Config.reference) :
    ResultOf N := done { s with e0 := s.e0.reset cfg }

/-- `E0.SET_SR v` (R153). -/
def execE0SetSr (v : Data) (s : State.Of N) (cfg : Config.Parameters N := by exact Sys2Proof.Config.reference) :
    ResultOf N :=
  done { s with e0.regs := s.e0.regs.setSr cfg (cfg.num v) }

/-- `E0.SET_FREQ v` (R154). -/
def execE0SetFreq (v : Data) (s : State.Of N) (cfg : Config.Parameters N := by exact Sys2Proof.Config.reference) :
    ResultOf N :=
  done { s with e0.regs := s.e0.regs.setFreq cfg (cfg.num v) }

/-- `E0.SET_HARM v` (R155). -/
def execE0SetHarm (v : Data) (s : State.Of N) (cfg : Config.Parameters N := by exact Sys2Proof.Config.reference) :
    ResultOf N :=
  done { s with e0.regs := s.e0.regs.setHarm cfg (cfg.num v) }

/-- `E0.SET_TIMB v` (R156). -/
def execE0SetTimb (v : Data) (s : State.Of N) (cfg : Config.Parameters N := by exact Sys2Proof.Config.reference) :
    ResultOf N :=
  done { s with e0.regs := s.e0.regs.setTimb cfg (cfg.num v) }

/-- `E0.SET_MORPH v` (R157). -/
def execE0SetMorph (v : Data) (s : State.Of N) (cfg : Config.Parameters N := by exact Sys2Proof.Config.reference) :
    ResultOf N :=
  done { s with e0.regs := s.e0.regs.setMorph cfg (cfg.num v) }

/-- `E0.SET_LEVEL v` (R158). -/
def execE0SetLevel (v : Data) (s : State.Of N) (cfg : Config.Parameters N := by exact Sys2Proof.Config.reference) :
    ResultOf N :=
  done { s with e0.regs := s.e0.regs.setLevel cfg (cfg.num v) }

/-- `E0.PRODUCE` (R194): the pair in `RW` (R116). -/
def execE0Produce (s : State.Of N) (cfg : Config.Parameters N := by exact Sys2Proof.Config.reference) :
    ResultOf N :=
  doneWithPair { s with e0 := (s.e0.produce cfg).2 } (s.e0.produce cfg).1 cfg

/-! ## E1 triangle_osc_gen -/

/-- `E1.RESET` (R201). -/
def TriangleOsc.reset (cfg : Config.Parameters N) (e : TriangleOsc N) : TriangleOsc N :=
  { e with ph := cfg.zero, integ := cfg.zero, lp := cfg.zero }

/-- The value `bright` returns and stores in `lp` (R204).
DESIGN CHOICE (log 36): R205 says that at `freq = 0` the output settles to the noise floor; R204's pseudocode cross-fades in
the sine of the held phase, and the model follows R204: with `morph > 0` and a sine that is not 0 the output settles to
`SAT((1 + timb)·morph·SIN(2·PI·ph))`. -/
def TriangleOsc.brightened (cfg : Config.Parameters N) (e : TriangleOsc N) : N :=
  bright cfg e.regs e.lp (cfg.lerp e.integ (sinTurn cfg e.ph) e.regs.morph)

/-- The reference body of E1 (R204).
DESIGN CHOICE (log 52): R204 says that the sum is a triangle of peak 1 and `integ` its value at `ph`; its pseudocode leaks, and
the model follows it: at 20 Hz and 48000 Hz the peak is about 0.895, and after a change of frequency an offset decays. -/
def TriangleOsc.body (cfg : Config.Parameters N) : EngineBody (TriangleOsc N) N := fun e _ =>
  let dt := inc cfg e.regs.freq e.regs.sr
  let x := cfg.mul (cfg.add cfg.one e.regs.timb) (e.brightened cfg)
  { state := { e with
      lp := e.brightened cfg
      integ := cfg.ftz (cfg.add (cfg.mul (cfg.sub cfg.one cfg.triLeak) e.integ)
        (cfg.mul (cfg.mul (cfg.ofNat 4) dt)
          (blsquare cfg (cfg.wrap1 (cfg.add e.ph (cfg.ofRat 1 4))) dt)))
      ph := phaseNext cfg e.ph dt }
    draws := 0, xL := x, xR := x }

/-- `E1.PRODUCE`: one call of `ENGINE_BODY[1]`, which is `TriangleOsc.body` unless the configuration replaces it, then the output
stage (R168, R172). -/
def TriangleOsc.produce (cfg : Config.Parameters N) (e : TriangleOsc N) : Stereo N × TriangleOsc N :=
  let b := (cfg.engineBody.triangle.getD (TriangleOsc.body cfg)) e (e.regs.draws cfg)
  let out := finish cfg 1 e.regs b
  (out.1, { b.state with regs := out.2 })

/-! ### The operations of E1 -/

/-- `E1.RESET` (R201). -/
def execE1Reset (s : State.Of N) (cfg : Config.Parameters N := by exact Sys2Proof.Config.reference) :
    ResultOf N := done { s with e1 := s.e1.reset cfg }

/-- `E1.SET_SR v` (R153). -/
def execE1SetSr (v : Data) (s : State.Of N) (cfg : Config.Parameters N := by exact Sys2Proof.Config.reference) :
    ResultOf N :=
  done { s with e1.regs := s.e1.regs.setSr cfg (cfg.num v) }

/-- `E1.SET_FREQ v` (R154). -/
def execE1SetFreq (v : Data) (s : State.Of N) (cfg : Config.Parameters N := by exact Sys2Proof.Config.reference) :
    ResultOf N :=
  done { s with e1.regs := s.e1.regs.setFreq cfg (cfg.num v) }

/-- `E1.SET_HARM v` (R155). -/
def execE1SetHarm (v : Data) (s : State.Of N) (cfg : Config.Parameters N := by exact Sys2Proof.Config.reference) :
    ResultOf N :=
  done { s with e1.regs := s.e1.regs.setHarm cfg (cfg.num v) }

/-- `E1.SET_TIMB v` (R156). -/
def execE1SetTimb (v : Data) (s : State.Of N) (cfg : Config.Parameters N := by exact Sys2Proof.Config.reference) :
    ResultOf N :=
  done { s with e1.regs := s.e1.regs.setTimb cfg (cfg.num v) }

/-- `E1.SET_MORPH v` (R157). -/
def execE1SetMorph (v : Data) (s : State.Of N) (cfg : Config.Parameters N := by exact Sys2Proof.Config.reference) :
    ResultOf N :=
  done { s with e1.regs := s.e1.regs.setMorph cfg (cfg.num v) }

/-- `E1.SET_LEVEL v` (R158). -/
def execE1SetLevel (v : Data) (s : State.Of N) (cfg : Config.Parameters N := by exact Sys2Proof.Config.reference) :
    ResultOf N :=
  done { s with e1.regs := s.e1.regs.setLevel cfg (cfg.num v) }

/-- `E1.PRODUCE` (R204): the pair in `RW` (R116). -/
def execE1Produce (s : State.Of N) (cfg : Config.Parameters N := by exact Sys2Proof.Config.reference) :
    ResultOf N :=
  doneWithPair { s with e1 := (s.e1.produce cfg).2 } (s.e1.produce cfg).1 cfg

/-! ## E2 square_osc_gen -/

/-- `E2.RESET` (R211). -/
def SquareOsc.reset (cfg : Config.Parameters N) (e : SquareOsc N) : SquareOsc N :=
  { e with ph := cfg.zero, lp := cfg.zero }

/-- The value `bright` returns and stores in `lp` (R214).
DESIGN CHOICE (log 46): R215 says that at `freq = sr/2` the output is small. The step corrections make the pulse small; R214's
pseudocode cross-fades in the sine of the phase all the same, and the model follows R214: with `morph = 1`, `harm = 1` and the
phase at 0.25, which a change of frequency reaches, the output alternates between 0.7616 and -0.7616. -/
def SquareOsc.brightened (cfg : Config.Parameters N) (e : SquareOsc N) : N :=
  let pw := cfg.add (cfg.ofRat 1 2) (cfg.mul cfg.sqPwSpan e.regs.timb)
  let v := cfg.sub (blpulse cfg e.ph (inc cfg e.regs.freq e.regs.sr) pw) (cfg.sub (cfg.mul cfg.two pw) cfg.one)
  bright cfg e.regs e.lp (cfg.lerp v (sinTurn cfg e.ph) e.regs.morph)

/-- The reference body of E2 (R214). -/
def SquareOsc.body (cfg : Config.Parameters N) : EngineBody (SquareOsc N) N := fun e _ =>
  { state := { e with lp := e.brightened cfg, ph := phaseNext cfg e.ph (inc cfg e.regs.freq e.regs.sr) }
    draws := 0, xL := e.brightened cfg, xR := e.brightened cfg }

/-- `E2.PRODUCE`: one call of `ENGINE_BODY[2]`, which is `SquareOsc.body` unless the configuration replaces it, then the output
stage (R168, R172). -/
def SquareOsc.produce (cfg : Config.Parameters N) (e : SquareOsc N) : Stereo N × SquareOsc N :=
  let b := (cfg.engineBody.square.getD (SquareOsc.body cfg)) e (e.regs.draws cfg)
  let out := finish cfg 2 e.regs b
  (out.1, { b.state with regs := out.2 })

/-! ### The operations of E2 -/

/-- `E2.RESET` (R211). -/
def execE2Reset (s : State.Of N) (cfg : Config.Parameters N := by exact Sys2Proof.Config.reference) :
    ResultOf N := done { s with e2 := s.e2.reset cfg }

/-- `E2.SET_SR v` (R153). -/
def execE2SetSr (v : Data) (s : State.Of N) (cfg : Config.Parameters N := by exact Sys2Proof.Config.reference) :
    ResultOf N :=
  done { s with e2.regs := s.e2.regs.setSr cfg (cfg.num v) }

/-- `E2.SET_FREQ v` (R154). -/
def execE2SetFreq (v : Data) (s : State.Of N) (cfg : Config.Parameters N := by exact Sys2Proof.Config.reference) :
    ResultOf N :=
  done { s with e2.regs := s.e2.regs.setFreq cfg (cfg.num v) }

/-- `E2.SET_HARM v` (R155). -/
def execE2SetHarm (v : Data) (s : State.Of N) (cfg : Config.Parameters N := by exact Sys2Proof.Config.reference) :
    ResultOf N :=
  done { s with e2.regs := s.e2.regs.setHarm cfg (cfg.num v) }

/-- `E2.SET_TIMB v` (R156). -/
def execE2SetTimb (v : Data) (s : State.Of N) (cfg : Config.Parameters N := by exact Sys2Proof.Config.reference) :
    ResultOf N :=
  done { s with e2.regs := s.e2.regs.setTimb cfg (cfg.num v) }

/-- `E2.SET_MORPH v` (R157). -/
def execE2SetMorph (v : Data) (s : State.Of N) (cfg : Config.Parameters N := by exact Sys2Proof.Config.reference) :
    ResultOf N :=
  done { s with e2.regs := s.e2.regs.setMorph cfg (cfg.num v) }

/-- `E2.SET_LEVEL v` (R158). -/
def execE2SetLevel (v : Data) (s : State.Of N) (cfg : Config.Parameters N := by exact Sys2Proof.Config.reference) :
    ResultOf N :=
  done { s with e2.regs := s.e2.regs.setLevel cfg (cfg.num v) }

/-- `E2.PRODUCE` (R214): the pair in `RW` (R116). -/
def execE2Produce (s : State.Of N) (cfg : Config.Parameters N := by exact Sys2Proof.Config.reference) :
    ResultOf N :=
  doneWithPair { s with e2 := (s.e2.produce cfg).2 } (s.e2.produce cfg).1 cfg

/-! ## E3 sawtooth_osc_gen -/

/-- `E3.RESET` (R221). -/
def SawOsc.reset (cfg : Config.Parameters N) (e : SawOsc N) : SawOsc N := { e with ph := cfg.zero, lp := cfg.zero }

/-- The value `bright` returns and stores in `lp` (R224).
DESIGN CHOICE (log 41): R225 says that at `freq = 0` the output settles to `SAT(2·ph - 1)`, after a reset `tanh(-1)`; R224's
pseudocode cross-fades in the square and the sine, and the model follows R224: with `timb > 0` or `morph > 0` the output
settles to `SAT` of the cross-faded value, after a reset with `timb = 1` and `morph = 0` to `tanh(1)`. -/
def SawOsc.brightened (cfg : Config.Parameters N) (e : SawOsc N) : N :=
  let dt := inc cfg e.regs.freq e.regs.sr
  let v := cfg.lerp (blsaw cfg e.ph dt) (blsquare cfg e.ph dt) e.regs.timb
  bright cfg e.regs e.lp (cfg.lerp v (sinTurn cfg e.ph) e.regs.morph)

/-- The reference body of E3 (R224). -/
def SawOsc.body (cfg : Config.Parameters N) : EngineBody (SawOsc N) N := fun e _ =>
  { state := { e with lp := e.brightened cfg, ph := phaseNext cfg e.ph (inc cfg e.regs.freq e.regs.sr) }
    draws := 0, xL := e.brightened cfg, xR := e.brightened cfg }

/-- `E3.PRODUCE`: one call of `ENGINE_BODY[3]`, which is `SawOsc.body` unless the configuration replaces it, then the output
stage (R168, R172). -/
def SawOsc.produce (cfg : Config.Parameters N) (e : SawOsc N) : Stereo N × SawOsc N :=
  let b := (cfg.engineBody.saw.getD (SawOsc.body cfg)) e (e.regs.draws cfg)
  let out := finish cfg 3 e.regs b
  (out.1, { b.state with regs := out.2 })

/-! ### The operations of E3 -/

/-- `E3.RESET` (R221). -/
def execE3Reset (s : State.Of N) (cfg : Config.Parameters N := by exact Sys2Proof.Config.reference) :
    ResultOf N := done { s with e3 := s.e3.reset cfg }

/-- `E3.SET_SR v` (R153). -/
def execE3SetSr (v : Data) (s : State.Of N) (cfg : Config.Parameters N := by exact Sys2Proof.Config.reference) :
    ResultOf N :=
  done { s with e3.regs := s.e3.regs.setSr cfg (cfg.num v) }

/-- `E3.SET_FREQ v` (R154). -/
def execE3SetFreq (v : Data) (s : State.Of N) (cfg : Config.Parameters N := by exact Sys2Proof.Config.reference) :
    ResultOf N :=
  done { s with e3.regs := s.e3.regs.setFreq cfg (cfg.num v) }

/-- `E3.SET_HARM v` (R155). -/
def execE3SetHarm (v : Data) (s : State.Of N) (cfg : Config.Parameters N := by exact Sys2Proof.Config.reference) :
    ResultOf N :=
  done { s with e3.regs := s.e3.regs.setHarm cfg (cfg.num v) }

/-- `E3.SET_TIMB v` (R156). -/
def execE3SetTimb (v : Data) (s : State.Of N) (cfg : Config.Parameters N := by exact Sys2Proof.Config.reference) :
    ResultOf N :=
  done { s with e3.regs := s.e3.regs.setTimb cfg (cfg.num v) }

/-- `E3.SET_MORPH v` (R157). -/
def execE3SetMorph (v : Data) (s : State.Of N) (cfg : Config.Parameters N := by exact Sys2Proof.Config.reference) :
    ResultOf N :=
  done { s with e3.regs := s.e3.regs.setMorph cfg (cfg.num v) }

/-- `E3.SET_LEVEL v` (R158). -/
def execE3SetLevel (v : Data) (s : State.Of N) (cfg : Config.Parameters N := by exact Sys2Proof.Config.reference) :
    ResultOf N :=
  done { s with e3.regs := s.e3.regs.setLevel cfg (cfg.num v) }

/-- `E3.PRODUCE` (R224): the pair in `RW` (R116). -/
def execE3Produce (s : State.Of N) (cfg : Config.Parameters N := by exact Sys2Proof.Config.reference) :
    ResultOf N :=
  doneWithPair { s with e3 := (s.e3.produce cfg).2 } (s.e3.produce cfg).1 cfg

end Sys2Proof.Machine
end

