-- ==== Sys2Proof/Machine/LadderFilter.lean ====
section
/-! DEFINITION. The four-stage ladder filter (46_ladder_filter.md). -/

namespace Sys2Proof.Machine

variable {N : Type} [DecidableEq N]

/-- The wet signal at the output stage: `SAT` when `FX_SAT`, else unchanged (R412). -/
def fxSat (cfg : Config.Parameters N) (y : N) : N := if cfg.fxSat then cfg.sat y else y

/-- `(1 - m)·x + m·w`, the dry/wet mix of the filter and the effects (R408, R425, R447, R466). -/
def dryWet (cfg : Config.Parameters N) (m x w : N) : N :=
  cfg.add (cfg.mul (cfg.sub cfg.one m) x) (cfg.mul m w)

/-- `FLT.SET_SR` on the unit: the cutoff is clamped to the new range (R404).
DESIGN CHOICE (log 33): below about 44.4 Hz at the defaults that range is empty; `clamp` is `min(max(v, lo), hi)`, so the cutoff
is `FC_MAX_RATIO·sr`, under the `FC_MIN` of R54. -/
def Ladder.setSr (cfg : Config.Parameters N) (u : Ladder N) (v : N) : Ladder N :=
  if cfg.isRate v then
    { u with sr := cfg.ftz v, fc := cfg.ftz (cfg.clamp u.fc cfg.fcMin (cfg.mul cfg.fcMaxRatio v)) }
  else u

/-- `FLT.SET_CUTOFF` on the unit (R405). -/
def Ladder.setCutoff (cfg : Config.Parameters N) (u : Ladder N) (v : N) : Ladder N :=
  { u with fc := cfg.ftz (cfg.san v cfg.fcMin (cfg.mul cfg.fcMaxRatio u.sr)) }

/-- `FLT.SET_RES` on the unit (R406). -/
def Ladder.setRes (cfg : Config.Parameters N) (u : Ladder N) (v : N) : Ladder N :=
  { u with res := cfg.ftz (cfg.san v cfg.zero cfg.resMax) }

/-- `FLT.SET_WET` on the unit (R407). -/
def Ladder.setWet (cfg : Config.Parameters N) (u : Ladder N) (v : N) : Ladder N :=
  { u with wet := cfg.ftz (cfg.sanUnit v) }

/-- `FLT.RESET` on the unit (R409). -/
def Ladder.reset (cfg : Config.Parameters N) (u : Ladder N) : Ladder N :=
  { u with s := ⟨Bank.fill 4 cfg.zero, Bank.fill 4 cfg.zero⟩ }

/-- `g = TAN(PI·fc/sr)` (R403).
DESIGN CHOICE (log 33): R59 says that the coefficients are always finite, and with ordinary rates they are. In `NUM` each
operation rounds (R8), and `PI·fc` overflows for a filter rate near the largest word (`fc = 0.45·sr`), `PI·fc/sr` for a tiny
one after a NaN cutoff, which stores `FC_MIN` at every rate (R405). `TAN` of the infinity is then a free NaN (log 5), and the
operation completes with it. R403's bounds on `g` need R402's range: they fail where that range is empty, from reset in a
configuration with `FC_MAX_RATIO·SR < FC_MIN`, and hold only up to rounding at its upper end (6.3137555 for 6.3137515). -/
def Ladder.g (cfg : Config.Parameters N) (u : Ladder N) : N := cfg.tan (cfg.div (cfg.mul cfg.pi u.fc) u.sr)

/-- `G = g/(1 + g)` (R403). -/
def Ladder.gain (cfg : Config.Parameters N) (u : Ladder N) : N := cfg.div (u.g cfg) (cfg.add cfg.one (u.g cfg))

/-- `k = RES_SCALE·res` (R403). -/
def Ladder.k (cfg : Config.Parameters N) (u : Ladder N) : N := cfg.mul cfg.resScale u.res

/-- `S`, what the fourth stage would output for zero input (R408). -/
def Ladder.zeroInput (cfg : Config.Parameters N) (u : Ladder N) (s : Bank 4 N) : N :=
  let h := u.gain cfg
  let s1 := cfg.mul (cfg.mul (cfg.mul h h) h) (bankGet s 0 cfg)
  let s2 := cfg.mul (cfg.mul h h) (bankGet s 1 cfg)
  let s3 := cfg.mul h (bankGet s 2 cfg)
  cfg.div (cfg.add (cfg.add (cfg.add s1 s2) s3) (bankGet s 3 cfg)) (cfg.add cfg.one (u.g cfg))

/-- `u`, the input of stage 1 with the feedback already subtracted (R408). -/
def Ladder.input (cfg : Config.Parameters N) (u : Ladder N) (s : Bank 4 N) (x : N) : N :=
  let h := u.gain cfg
  cfg.div (cfg.sub x (cfg.mul (u.k cfg) (u.zeroInput cfg s)))
    (cfg.add cfg.one (cfg.mul (cfg.mul (cfg.mul (cfg.mul (u.k cfg) h) h) h) h))

/-- The output of the last of the given stages, updated in series (R408). -/
def ladderOut (cfg : Config.Parameters N) (h : N) : List N → N → N
  | [], y => y
  | s :: t, y => ladderOut cfg h t (cfg.add (cfg.mul (cfg.sub y s) h) s)

/-- The new states of the given stages (R408).
DESIGN CHOICE (log 35): each operation rounds (R8), so a stage stands still once `(y - s)·G` is under half a unit in the last
place of `s`, a little short of its input, and the DC gain of R410, `1/(1 + k)`, is not reached: at `fc = 20`, 48000 Hz,
`res = 0`, a constant 0.5 settles at about 0.499955, and with `FX_SAT` the output at about 0.462081, where `tanh(0.5)` is
0.462117. -/
def ladderStates (cfg : Config.Parameters N) (h : N) : List N → N → List N
  | [], _ => []
  | s :: t, y =>
    let v := cfg.mul (cfg.sub y s) h
    cfg.ftz (cfg.add (cfg.add v s) v) :: ladderStates cfg h t (cfg.add v s)

omit [DecidableEq N] in
theorem ladderStates_length (h : N) (l : List N) (y : N) : (ladderStates cfg h l y).length = l.length := by
  induction l generalizing y with
  | nil => rfl
  | cons s t ih => simp [ladderStates, ih]

/-- The value `FLT.PROCESS` returns for the sample `x` of channel `c` (R408). -/
def Ladder.output (cfg : Config.Parameters N) (u : Ladder N) (c : Chan) (x : N) : N :=
  let s := stereoGet u.s c
  dryWet cfg u.wet x (fxSat cfg (ladderOut cfg (u.gain cfg) s.words (u.input cfg s x)))

/-- The unit after one sample `x` of channel `c` (R408). -/
def Ladder.process (cfg : Config.Parameters N) (u : Ladder N) (c : Chan) (x : N) : Ladder N :=
  let s := stereoGet u.s c
  { u with s := stereoSet u.s c ⟨ladderStates cfg (u.gain cfg) s.words (u.input cfg s x),
                                 (ladderStates_length _ _ _).trans s.len⟩ }

/-! ### The operations of FLT -/

/-- `FLT.RESET` (R409). -/
def execFltReset (s : State.Of N) (cfg : Config.Parameters N := by exact Sys2Proof.Config.reference) :
    ResultOf N := done { s with flt := s.flt.reset cfg }

/-- `FLT.SET_SR v` (R404). -/
def execFltSetSr (v : Data) (s : State.Of N) (cfg : Config.Parameters N := by exact Sys2Proof.Config.reference) :
    ResultOf N :=
  done { s with flt := s.flt.setSr cfg (cfg.num v) }

/-- `FLT.PROCESS c, v` (R408): the output of channel `c` in `RW[31:0]` (R116). -/
def execFltProcess (c : Idx) (v : Data) (s : State.Of N) (cfg : Config.Parameters N := by exact Sys2Proof.Config.reference) :
    ResultOf N :=
  doneWith { s with flt := s.flt.process cfg (chanOf c) (sampleOf cfg v) }
    (s.flt.output cfg (chanOf c) (sampleOf cfg v)) cfg

/-- `FLT.SET_CUTOFF v` (R405). -/
def execFltSetCutoff (v : Data) (s : State.Of N) (cfg : Config.Parameters N := by exact Sys2Proof.Config.reference) :
    ResultOf N :=
  done { s with flt := s.flt.setCutoff cfg (cfg.num v) }

/-- `FLT.SET_RES v` (R406). -/
def execFltSetRes (v : Data) (s : State.Of N) (cfg : Config.Parameters N := by exact Sys2Proof.Config.reference) :
    ResultOf N :=
  done { s with flt := s.flt.setRes cfg (cfg.num v) }

/-- `FLT.SET_WET v` (R407). -/
def execFltSetWet (v : Data) (s : State.Of N) (cfg : Config.Parameters N := by exact Sys2Proof.Config.reference) :
    ResultOf N :=
  done { s with flt := s.flt.setWet cfg (cfg.num v) }

end Sys2Proof.Machine
end

