-- ==== Sys2Proof/Machine/DelayChorus.lean ====
section
/-! DEFINITION. The feedback delay and the chorus (47_delay_chorus.md). -/

namespace Sys2Proof.Machine

variable {N : Type} [DecidableEq N]

/-! ## DLY -/

/-- `DLY.SET_AMOUNT` on the unit (R423). -/
def Delay.setAmount (cfg : Config.Parameters N) (u : Delay N) (v : N) : Delay N :=
  { u with amount := cfg.ftz (cfg.sanUnit v) }

/-- One channel of DLY after a reset (R426). -/
def DelayChannel.clear (cfg : Config.Parameters N) : DelayChannel N := ⟨[], 0, cfg.zero⟩

/-- `DLY.RESET` on the unit (R426). -/
def Delay.reset (cfg : Config.Parameters N) (u : Delay N) : Delay N :=
  { u with ch := ⟨DelayChannel.clear cfg, DelayChannel.clear cfg⟩ }

/-- `dlen(a)`, the delay in samples (R424).
DESIGN CHOICE (log 39): in a configuration with `SR` below 2, which the premise `SR >= 1` admits (log 1), `DLY_CAP` is 1 and
R428's range `1 .. DLY_CAP - 1` is empty; R424's clamp gives 0, and the tap is the word about to be written, where R428 says
that the read never aliases it. R425 reads before it writes, so the tap is the word of the sample before. -/
def dlen (cfg : Config.Parameters N) (a : N) : Int :=
  let t := cfg.add cfg.dlyTMin (cfg.mul (cfg.sub cfg.dlyTMax cfg.dlyTMin) a)
  clampInt (cfg.round (cfg.mul t cfg.sr)) 1 ((cfg.dlyCap : Int) - 1)

/-- The low-pass state after this sample, from the tap read before the write (R425). -/
def Delay.lpNext (cfg : Config.Parameters N) (u : Delay N) (c : Chan) : N :=
  let ch := stereoGet u.ch c
  let r := memRead cfg.dlyCap ch.buf ((ch.w : Int) - dlen cfg u.amount) cfg
  cfg.ftz (cfg.add ch.lp (cfg.mul cfg.dlyDamp (cfg.sub r ch.lp)))

/-- The value `DLY.PROCESS` returns for the sample `x` of channel `c` (R425). -/
def Delay.output (cfg : Config.Parameters N) (u : Delay N) (c : Chan) (x : N) : N :=
  dryWet cfg u.amount x (fxSat cfg (u.lpNext cfg c))

/-- The unit after one sample `x` of channel `c` (R425). -/
def Delay.process (cfg : Config.Parameters N) (u : Delay N) (c : Chan) (x : N) : Delay N :=
  let ch := stereoGet u.ch c
  let fb := cfg.add cfg.dlyFbMin (cfg.mul (cfg.sub cfg.dlyFbMax cfg.dlyFbMin) u.amount)
  { u with ch := stereoSet u.ch c (
      { buf := memWrite cfg.dlyCap ch.buf ch.w (cfg.add x (cfg.mul fb (u.lpNext cfg c))) cfg
        w := cursorNext cfg.dlyCap ch.w
        lp := u.lpNext cfg c } : DelayChannel N) }

/-! ### The operations of DLY -/

/-- `DLY.RESET` (R426). -/
def execDlyReset (s : State.Of N) (cfg : Config.Parameters N := by exact Sys2Proof.Config.reference) :
    ResultOf N := done { s with dly := s.dly.reset cfg }

/-- `DLY.PROCESS c, v` (R425): the output of channel `c` in `RW[31:0]` (R116). -/
def execDlyProcess (c : Idx) (v : Data) (s : State.Of N) (cfg : Config.Parameters N := by exact Sys2Proof.Config.reference) :
    ResultOf N :=
  doneWith { s with dly := s.dly.process cfg (chanOf c) (sampleOf cfg v) }
    (s.dly.output cfg (chanOf c) (sampleOf cfg v)) cfg

/-- `DLY.SET_AMOUNT v` (R423). -/
def execDlySetAmount (v : Data) (s : State.Of N) (cfg : Config.Parameters N := by exact Sys2Proof.Config.reference) :
    ResultOf N :=
  done { s with dly := s.dly.setAmount cfg (cfg.num v) }

/-! ## CHO -/

/-- `CHO.SET_AMOUNT` on the unit (R443). -/
def Chorus.setAmount (cfg : Config.Parameters N) (u : Chorus N) (v : N) : Chorus N :=
  { u with amount := cfg.ftz (cfg.sanUnit v) }

/-- `CHO.RESET` on the unit (R448). -/
def Chorus.reset (cfg : Config.Parameters N) (u : Chorus N) : Chorus N :=
  { u with ch := ⟨ChorusChannel.clear cfg, ChorusChannel.clear cfg⟩ }

/-- The rate of the voice oscillators in Hz (R444). -/
def choRate (cfg : Config.Parameters N) (a : N) : N :=
  cfg.add cfg.choRateMin (cfg.mul (cfg.sub cfg.choRateMax cfg.choRateMin) a)

/-- The depth of the voice oscillators in seconds (R444). -/
def choDepth (cfg : Config.Parameters N) (a : N) : N :=
  cfg.add cfg.choDepthMin (cfg.mul (cfg.sub cfg.choDepthMax cfg.choDepthMin) a)

/-- `dly(c, v)` in samples, for the voice phase `phi` (R445).
DESIGN CHOICE (log 43): R449 and R511 say that every delay is at least 576 samples; the operations are rounded (R8), and at
`SR = 48000`, `a = 1` and `SIN(phi) = -1` the delay is 575.99994; at another `SR` it is another number, and below about 83 Hz
it can be under one sample, where the read takes in the word about to be written. R442 concludes from its constraint that a
read is always 1 to `CHO_CAP - 2` samples behind the cursor; the constraint, kept as the premise, admits a `CHO_BASE` just
above 8 ms, and 8.01 ms at 48000 Hz gives a delay of 0.48 samples. The model follows R445. -/
def choDelay (cfg : Config.Parameters N) (a phi : N) : N :=
  cfg.mul (cfg.add cfg.choBase (cfg.mul (choDepth cfg a) (cfg.sin phi))) cfg.sr

/-- `fread(buf, pos)`, the fractional read; at the last index of the array it does not interpolate (R446).
DESIGN CHOICE (log 25): for `pos` just below 0, from about -2^-12, `q` rounds to `CHO_CAP` itself; `i0` is then `CHO_CAP`,
the boundary test fails and the words at 0 and 1 are read with `fr = 0`, where the rule on real numbers reads the word at
`CHO_CAP - 1`. With a `CHO_CAP` above 2^24 the cursor itself is rounded in `pos`. -/
def fread (cfg : Config.Parameters N) (buf : Memory N) (pos : N) : N :=
  let cap := cfg.ofNat cfg.choCap
  let q := cfg.sub pos (cfg.ofInt ((cfg.choCap : Int) * cfg.floor (cfg.div pos cap)))
  let i0 := cfg.floor q
  if i0 = (cfg.choCap : Int) - 1 then memRead cfg.choCap buf i0 cfg
  else cfg.lerp (memRead cfg.choCap buf i0 cfg) (memRead cfg.choCap buf (i0 + 1) cfg) (cfg.sub q (cfg.ofInt i0))

/-- A voice phase after one sample (R444, R447).
DESIGN CHOICE (log 27): the addition and the wrap are rounded at every sample (R8), so the three voices do not keep their
offsets exactly, as R444 says of real numbers: after 2000 samples at `a = 0.5` voice 2 is at about 4.46226, and R444's
example says 4.461799.
DESIGN CHOICE (log 47): R56 and R548 give a phase the range [0, 2·PI), and R447 wraps by one subtraction. With `SR` below
1.75 Hz, which the premise `SR >= 1` admits (log 1), the increment can exceed 2·PI, and one subtraction leaves the phase above
the range, where it grows from sample to sample. The model follows R447. -/
def choPhaseNext (cfg : Config.Parameters N) (a phi : N) : N :=
  let p := cfg.add phi (cfg.div (cfg.mul cfg.twoPi (choRate cfg a)) cfg.sr)
  cfg.ftz (if cfg.le cfg.twoPi p then cfg.sub p cfg.twoPi else p)

/-- The sum `acc` of the three voices' reads, all before the write (R447). -/
def ChorusChannel.voices (cfg : Config.Parameters N) (ch : ChorusChannel N) (a : N) : N :=
  (List.range 3).foldl
    (fun acc v => cfg.add acc
      (fread cfg ch.buf (cfg.sub (cfg.ofNat ch.w) (choDelay cfg a (bankGet ch.phi v cfg))))) cfg.zero

/-- The value `CHO.PROCESS` returns for the sample `x` of channel `c` (R447). -/
def Chorus.output (cfg : Config.Parameters N) (u : Chorus N) (c : Chan) (x : N) : N :=
  dryWet cfg u.amount x (fxSat cfg (cfg.div ((stereoGet u.ch c).voices cfg u.amount) (cfg.ofNat 3)))

/-- The unit after one sample `x` of channel `c` (R447). -/
def Chorus.process (cfg : Config.Parameters N) (u : Chorus N) (c : Chan) (x : N) : Chorus N :=
  let ch := stereoGet u.ch c
  { u with ch := stereoSet u.ch c (
      { buf := memWrite cfg.choCap ch.buf ch.w x cfg
        w := cursorNext cfg.choCap ch.w
        phi := bankMap (fun _ p => choPhaseNext cfg u.amount p) ch.phi } : ChorusChannel N) }

/-! ### The operations of CHO -/

/-- `CHO.RESET` (R448). -/
def execChoReset (s : State.Of N) (cfg : Config.Parameters N := by exact Sys2Proof.Config.reference) :
    ResultOf N := done { s with cho := s.cho.reset cfg }

/-- `CHO.PROCESS c, v` (R447): the output of channel `c` in `RW[31:0]` (R116). -/
def execChoProcess (c : Idx) (v : Data) (s : State.Of N) (cfg : Config.Parameters N := by exact Sys2Proof.Config.reference) :
    ResultOf N :=
  doneWith { s with cho := s.cho.process cfg (chanOf c) (sampleOf cfg v) }
    (s.cho.output cfg (chanOf c) (sampleOf cfg v)) cfg

/-- `CHO.SET_AMOUNT v` (R443). -/
def execChoSetAmount (v : Data) (s : State.Of N) (cfg : Config.Parameters N := by exact Sys2Proof.Config.reference) :
    ResultOf N :=
  done { s with cho := s.cho.setAmount cfg (cfg.num v) }

end Sys2Proof.Machine
end

