-- ==== Sys2Proof/Machine/Envelopes.lean ====
section
/-! DEFINITION. The ADSR and AD envelopes (45_envelopes_lfo.md, sections 1 and 2). -/

namespace Sys2Proof.Machine

variable {N : Type} [DecidableEq N]

/-- `rate(T, num)`: 1.0 for an instantaneous stage, else `num / (T·sr)` (R358, R371). DESIGN CHOICE (log 24): at a rate near the
largest word `T·sr` overflows, where D33 says that `ENV_TMAX` keeps it finite; the rate is then 0. -/
def envRate (cfg : Config.Parameters N) (sr t num : N) : N :=
  if cfg.le t cfg.envTMin then cfg.one else cfg.div num (cfg.mul t sr)

/-! ## ADSR -/

/-- `ADSR.SET_SR` on the unit (R351). -/
def Adsr.setSr (cfg : Config.Parameters N) (u : Adsr N) (v : N) : Adsr N :=
  if cfg.isRate v then { u with sr := cfg.ftz v } else u

/-- `ADSR.SET_ATTACK` on the unit (R352). -/
def Adsr.setAttack (cfg : Config.Parameters N) (u : Adsr N) (v : N) : Adsr N :=
  { u with a := cfg.ftz (cfg.san v cfg.zero cfg.envTMax) }

/-- `ADSR.SET_DECAY` on the unit (R353). -/
def Adsr.setDecay (cfg : Config.Parameters N) (u : Adsr N) (v : N) : Adsr N :=
  { u with d := cfg.ftz (cfg.san v cfg.zero cfg.envTMax) }

/-- `ADSR.SET_SUSTAIN` on the unit (R354). -/
def Adsr.setSustain (cfg : Config.Parameters N) (u : Adsr N) (v : N) : Adsr N := { u with s := cfg.ftz (cfg.sanUnit v) }

/-- `ADSR.SET_RELEASE` on the unit (R355). -/
def Adsr.setRelease (cfg : Config.Parameters N) (u : Adsr N) (v : N) : Adsr N :=
  { u with r := cfg.ftz (cfg.san v cfg.zero cfg.envTMax) }

/-- `gateOn()` (R356): the level is not written. -/
def Adsr.gateOn (u : Adsr N) : Adsr N := { u with st := .attack }

/-- `gateOff()` (R357): from any state; the level is not written. -/
def Adsr.gateOff (u : Adsr N) : Adsr N := { u with st := .release }

/-- `ADSR.RESET` on the unit (R359). -/
def Adsr.reset (cfg : Config.Parameters N) (u : Adsr N) : Adsr N := { u with st := .idle, level := cfg.zero }

/-- The stage's arithmetic of `process()`: level and stage before the final clamp, at most one transition (R358).
DESIGN CHOICE (log 24): the rate and each sum are rounded to `NUM` at every call (R8), so the length of a long stage
drifts from R361's `A·sr`, `R·sr` calls by more than the one sample the rule and U20 allow. A rate under half a unit in
the last place of the level leaves the level as it is, and the stage never ends, where R362 (a) and U16 name only `S = 0`:
with `S = 0.9` and `D = 100` at 48000 Hz the level stays in decay at 1, with `S = 0.01` and `R = 10` it stays in release at
a level above 0.5. -/
def Adsr.advance (cfg : Config.Parameters N) (u : Adsr N) : Adsr N :=
  match u.st with
  | .idle => { u with level := cfg.zero }
  | .attack =>
    let l := cfg.ftz (cfg.add u.level (envRate cfg u.sr u.a cfg.one))
    if cfg.le cfg.one l then { u with level := cfg.one, st := .decay } else { u with level := l }
  | .decay =>
    let l := cfg.ftz (cfg.sub u.level (envRate cfg u.sr u.d (cfg.sub cfg.one u.s)))
    if cfg.le l u.s then { u with level := cfg.ftz u.s, st := .sustain } else { u with level := l }
  | .sustain => { u with level := cfg.ftz u.s }
  | .release =>
    let l := cfg.ftz (cfg.sub u.level (envRate cfg u.sr u.r u.s))
    if cfg.le l cfg.zero then { u with level := cfg.zero, st := .idle } else { u with level := l }

/-- `process()`: the unit after one sample period; its level is the value returned (R358). -/
def Adsr.process (cfg : Config.Parameters N) (u : Adsr N) : Adsr N :=
  { u.advance cfg with level := cfg.ftz (cfg.clamp (u.advance cfg).level cfg.zero cfg.one) }

/-! ### The operations of ADSR -/

/-- `ADSR.RESET` (R359). -/
def execAdsrReset (s : State.Of N) (cfg : Config.Parameters N := by exact Sys2Proof.Config.reference) :
    ResultOf N := done { s with adsr := s.adsr.reset cfg }

/-- `ADSR.SET_SR v` (R351). -/
def execAdsrSetSr (v : Data) (s : State.Of N) (cfg : Config.Parameters N := by exact Sys2Proof.Config.reference) :
    ResultOf N :=
  done { s with adsr := s.adsr.setSr cfg (cfg.num v) }

/-- `ADSR.SET_ATTACK v` (R352). -/
def execAdsrSetAttack (v : Data) (s : State.Of N) (cfg : Config.Parameters N := by exact Sys2Proof.Config.reference) :
    ResultOf N :=
  done { s with adsr := s.adsr.setAttack cfg (cfg.num v) }

/-- `ADSR.SET_DECAY v` (R353). -/
def execAdsrSetDecay (v : Data) (s : State.Of N) (cfg : Config.Parameters N := by exact Sys2Proof.Config.reference) :
    ResultOf N :=
  done { s with adsr := s.adsr.setDecay cfg (cfg.num v) }

/-- `ADSR.SET_SUSTAIN v` (R354). -/
def execAdsrSetSustain (v : Data) (s : State.Of N) (cfg : Config.Parameters N := by exact Sys2Proof.Config.reference) :
    ResultOf N :=
  done { s with adsr := s.adsr.setSustain cfg (cfg.num v) }

/-- `ADSR.SET_RELEASE v` (R355). -/
def execAdsrSetRelease (v : Data) (s : State.Of N) (cfg : Config.Parameters N := by exact Sys2Proof.Config.reference) :
    ResultOf N :=
  done { s with adsr := s.adsr.setRelease cfg (cfg.num v) }

/-- `ADSR.GATE_ON` (R356). -/
def execAdsrGateOn (s : State.Of N) : ResultOf N := done { s with adsr := s.adsr.gateOn }

/-- `ADSR.GATE_OFF` (R357). -/
def execAdsrGateOff (s : State.Of N) : ResultOf N := done { s with adsr := s.adsr.gateOff }

/-- `ADSR.PROCESS` (R358): the level in `RW[31:0]` (R116). -/
def execAdsrProcess (s : State.Of N) (cfg : Config.Parameters N := by exact Sys2Proof.Config.reference) :
    ResultOf N :=
  doneWith { s with adsr := s.adsr.process cfg } (s.adsr.process cfg).level cfg

/-! ## AD -/

/-- `AD.SET_SR` on the unit (R366). -/
def Ad.setSr (cfg : Config.Parameters N) (u : Ad N) (v : N) : Ad N :=
  if cfg.isRate v then { u with sr := cfg.ftz v } else u

/-- `AD.SET_ATTACK` on the unit (R367). -/
def Ad.setAttack (cfg : Config.Parameters N) (u : Ad N) (v : N) : Ad N :=
  { u with a := cfg.ftz (cfg.san v cfg.zero cfg.envTMax) }

/-- `AD.SET_DECAY` on the unit (R368). -/
def Ad.setDecay (cfg : Config.Parameters N) (u : Ad N) (v : N) : Ad N :=
  { u with d := cfg.ftz (cfg.san v cfg.zero cfg.envTMax) }

/-- `gateOn()` (R369): the level is not written. -/
def Ad.gateOn (u : Ad N) : Ad N := { u with st := .attack }

/-- `gateOff()` (R370): idle, and the level 0 at once. -/
def Ad.gateOff (cfg : Config.Parameters N) (u : Ad N) : Ad N := { u with st := .idle, level := cfg.zero }

/-- `AD.RESET` on the unit (R372). -/
def Ad.reset (cfg : Config.Parameters N) (u : Ad N) : Ad N := { u with st := .idle, level := cfg.zero }

/-- The stage's arithmetic of `process()`, before the final clamp (R371); its rounding is that of `Adsr.advance`
(DESIGN CHOICE, log 24). -/
def Ad.advance (cfg : Config.Parameters N) (u : Ad N) : Ad N :=
  match u.st with
  | .idle => { u with level := cfg.zero }
  | .attack =>
    let l := cfg.ftz (cfg.add u.level (envRate cfg u.sr u.a cfg.one))
    if cfg.le cfg.one l then { u with level := cfg.one, st := .decay } else { u with level := l }
  | .decay =>
    let l := cfg.ftz (cfg.sub u.level (envRate cfg u.sr u.d cfg.one))
    if cfg.le l cfg.zero then { u with level := cfg.zero, st := .idle } else { u with level := l }

/-- `process()`: the unit after one sample period; its level is the value returned (R371). -/
def Ad.process (cfg : Config.Parameters N) (u : Ad N) : Ad N :=
  { u.advance cfg with level := cfg.ftz (cfg.clamp (u.advance cfg).level cfg.zero cfg.one) }

/-! ### The operations of AD -/

/-- `AD.RESET` (R372). -/
def execAdReset (s : State.Of N) (cfg : Config.Parameters N := by exact Sys2Proof.Config.reference) :
    ResultOf N := done { s with ad := s.ad.reset cfg }

/-- `AD.SET_SR v` (R366). -/
def execAdSetSr (v : Data) (s : State.Of N) (cfg : Config.Parameters N := by exact Sys2Proof.Config.reference) :
    ResultOf N :=
  done { s with ad := s.ad.setSr cfg (cfg.num v) }

/-- `AD.SET_ATTACK v` (R367). -/
def execAdSetAttack (v : Data) (s : State.Of N) (cfg : Config.Parameters N := by exact Sys2Proof.Config.reference) :
    ResultOf N :=
  done { s with ad := s.ad.setAttack cfg (cfg.num v) }

/-- `AD.SET_DECAY v` (R368). -/
def execAdSetDecay (v : Data) (s : State.Of N) (cfg : Config.Parameters N := by exact Sys2Proof.Config.reference) :
    ResultOf N :=
  done { s with ad := s.ad.setDecay cfg (cfg.num v) }

/-- `AD.GATE_ON` (R369). -/
def execAdGateOn (s : State.Of N) : ResultOf N := done { s with ad := s.ad.gateOn }

/-- `AD.GATE_OFF` (R370). -/
def execAdGateOff (s : State.Of N) (cfg : Config.Parameters N := by exact Sys2Proof.Config.reference) :
    ResultOf N := done { s with ad := s.ad.gateOff cfg }

/-- `AD.PROCESS` (R371): the level in `RW[31:0]` (R116). -/
def execAdProcess (s : State.Of N) (cfg : Config.Parameters N := by exact Sys2Proof.Config.reference) :
    ResultOf N :=
  doneWith { s with ad := s.ad.process cfg } (s.ad.process cfg).level cfg

end Sys2Proof.Machine
end

