-- ==== Sys2Proof/Machine/FmFormant.lean ====
section
/-! DEFINITION. Tone engines 6 and 7 (43_fm_formant.md): the spec's reference bodies, which a
configuration may replace (R172). -/

namespace Sys2Proof.Machine

variable {N : Type} [DecidableEq N]

/-! ## E6 fm_osc_pair -/

/-- `E6.RESET` (R281). -/
def FmPair.reset (cfg : Config.Parameters N) (e : FmPair N) : FmPair N :=
  { e with phC := cfg.zero, phM := cfg.zero, fbz := cfg.zero, env := cfg.zero, cnt := 0 }

/-- The index envelope this call uses (R284).
DESIGN CHOICE (log 29): `FM_DECAY` is rounded to `NUM` and so is the product at every call (R8), and the error grows over a
period: at n = 1999 the envelope is about 0.367954, where R284's closed form `0.9995^1999` and 95_test_vectors.md give
0.367971. -/
def FmPair.envNext (cfg : Config.Parameters N) (e : FmPair N) : N :=
  if e.cnt = 0 then cfg.ftz cfg.one else cfg.ftz (cfg.mul e.env cfg.fmDecay)

/-- The modulator's output `m` (R284). -/
def FmPair.modulator (cfg : Config.Parameters N) (e : FmPair N) : N :=
  cfg.sin (cfg.add (cfg.mul cfg.twoPi e.phM) (cfg.mul (cfg.mul e.regs.timb cfg.fmFbMax) e.fbz))

/-- The carrier's output `c` (R284). -/
def FmPair.carrier (cfg : Config.Parameters N) (e : FmPair N) : N :=
  let index := cfg.mul (cfg.mul e.regs.morph cfg.fmIndexMax) (e.envNext cfg)
  cfg.sin (cfg.add (cfg.mul cfg.twoPi e.phC) (cfg.mul index (e.modulator cfg)))

/-- The modulator-to-carrier ratio (R283, R284). -/
def FmPair.ratio (cfg : Config.Parameters N) (e : FmPair N) : N :=
  cfg.add cfg.fmRatioMin (cfg.mul e.regs.harm (cfg.sub cfg.fmRatioMax cfg.fmRatioMin))

/-- The reference body of E6 (R284). -/
def FmPair.body (cfg : Config.Parameters N) : EngineBody (FmPair N) N := fun e _ =>
  { state := { e with
      phC := phaseNext cfg e.phC (inc cfg e.regs.freq e.regs.sr)
      phM := phaseNext cfg e.phM (inc cfg (cfg.mul e.regs.freq (e.ratio cfg)) e.regs.sr)
      fbz := cfg.ftz (e.modulator cfg)
      env := e.envNext cfg
      cnt := (e.cnt + 1) % Config.fmPeriod }
    draws := 0, xL := e.carrier cfg, xR := e.carrier cfg }

/-- `E6.PRODUCE`: one call of `ENGINE_BODY[6]`, which is `FmPair.body` unless the configuration replaces it, then the output
stage (R168, R172). -/
def FmPair.produce (cfg : Config.Parameters N) (e : FmPair N) : Stereo N × FmPair N :=
  let b := (cfg.engineBody.fm.getD (FmPair.body cfg)) e (e.regs.draws cfg)
  let out := finish cfg 6 e.regs b
  (out.1, { b.state with regs := out.2 })

/-! ### The operations of E6 -/

/-- `E6.RESET` (R281). -/
def execE6Reset (s : State.Of N) (cfg : Config.Parameters N := by exact Sys2Proof.Config.reference) :
    ResultOf N := done { s with e6 := s.e6.reset cfg }

/-- `E6.SET_SR v` (R153). -/
def execE6SetSr (v : Data) (s : State.Of N) (cfg : Config.Parameters N := by exact Sys2Proof.Config.reference) :
    ResultOf N :=
  done { s with e6.regs := s.e6.regs.setSr cfg (cfg.num v) }

/-- `E6.SET_FREQ v` (R154). -/
def execE6SetFreq (v : Data) (s : State.Of N) (cfg : Config.Parameters N := by exact Sys2Proof.Config.reference) :
    ResultOf N :=
  done { s with e6.regs := s.e6.regs.setFreq cfg (cfg.num v) }

/-- `E6.SET_HARM v` (R155). -/
def execE6SetHarm (v : Data) (s : State.Of N) (cfg : Config.Parameters N := by exact Sys2Proof.Config.reference) :
    ResultOf N :=
  done { s with e6.regs := s.e6.regs.setHarm cfg (cfg.num v) }

/-- `E6.SET_TIMB v` (R156). -/
def execE6SetTimb (v : Data) (s : State.Of N) (cfg : Config.Parameters N := by exact Sys2Proof.Config.reference) :
    ResultOf N :=
  done { s with e6.regs := s.e6.regs.setTimb cfg (cfg.num v) }

/-- `E6.SET_MORPH v` (R157). -/
def execE6SetMorph (v : Data) (s : State.Of N) (cfg : Config.Parameters N := by exact Sys2Proof.Config.reference) :
    ResultOf N :=
  done { s with e6.regs := s.e6.regs.setMorph cfg (cfg.num v) }

/-- `E6.SET_LEVEL v` (R158). -/
def execE6SetLevel (v : Data) (s : State.Of N) (cfg : Config.Parameters N := by exact Sys2Proof.Config.reference) :
    ResultOf N :=
  done { s with e6.regs := s.e6.regs.setLevel cfg (cfg.num v) }

/-- `E6.PRODUCE` (R284): the pair in `RW` (R116). -/
def execE6Produce (s : State.Of N) (cfg : Config.Parameters N := by exact Sys2Proof.Config.reference) :
    ResultOf N :=
  doneWithPair { s with e6 := (s.e6.produce cfg).2 } (s.e6.produce cfg).1 cfg

/-! ## E7 formant_osc_filter -/

/-- `E7.RESET` (R291). -/
def FormantFilter.reset (cfg : Config.Parameters N) (e : FormantFilter N) : FormantFilter N :=
  { e with ph := cfg.zero, ic1 := Bank.fill 3 cfg.zero, ic2 := Bank.fill 3 cfg.zero }

/-- What one sample of a resonator gives: the band-pass output and the two new integrator states (R295). -/
structure ResonatorStep (N : Type) where
  band : N
  ic1 : N
  ic2 : N
  deriving DecidableEq, Repr

/-- The resonator with input `x`, centre frequency `f`, damping `k` (R295).
DESIGN CHOICE (log 37): every operation is rounded (R8), so at a sample rate far above audio (from about 7·10^8 Hz on)
`1 + g·(g + k)` rounds to 1; the denominator does not exceed 1 and the damping is lost, where R295 says that it exceeds 1 and
the resonator is stable. So is it at ordinary rates in a configuration with a `FORMANT_QMAX` of 10^6, which R293 admits.
DESIGN CHOICE (log 38): for the same reason the states do not reach those of a constant input: at `freq = 0` a band stands
still or circulates at about 10^-7 to 10^-6, where R297 says that it decays to 0. -/
def resonator (cfg : Config.Parameters N) (f sr k x ic1 ic2 : N) : ResonatorStep N :=
  let g := cfg.tan (cfg.div (cfg.mul cfg.pi f) sr)
  let a1 := cfg.div cfg.one (cfg.add cfg.one (cfg.mul g (cfg.add g k)))
  let a2 := cfg.mul g a1
  let a3 := cfg.mul g a2
  let v3 := cfg.sub x ic2
  let v1 := cfg.add (cfg.mul a1 ic1) (cfg.mul a2 v3)
  let v2 := cfg.add (cfg.add ic2 (cfg.mul a2 ic1)) (cfg.mul a3 v3)
  { band := cfg.mul k v1
    ic1 := cfg.ftz (cfg.sub (cfg.mul cfg.two v1) ic1)
    ic2 := cfg.ftz (cfg.sub (cfg.mul cfg.two v2) ic2) }

/-- The source pulse `src` (R296). -/
def FormantFilter.source (cfg : Config.Parameters N) (e : FormantFilter N) : N :=
  let dt := inc cfg e.regs.freq e.regs.sr
  let pulse := cfg.sub (blpulse cfg e.ph dt cfg.formantPw) (cfg.sub (cfg.mul cfg.two cfg.formantPw) cfg.one)
  cfg.lerp pulse (blsaw cfg e.ph dt) e.regs.morph

/-- An entry of a vowel table at the position `4·timb`, for formant `j` (R296). -/
def FormantFilter.lookup (cfg : Config.Parameters N) (e : FormantFilter N) (t : List (List N)) (j : Nat) : N :=
  let x := cfg.mul (cfg.ofNat 4) e.regs.timb
  let i := min (cfg.floor x) 3
  cfg.lerp (tableAt2 t i.toNat j cfg) (tableAt2 t (i.toNat + 1) j cfg) (cfg.sub x (cfg.ofInt i))

/-- Resonator `j` applied to `src` (R296). -/
def FormantFilter.resonance (cfg : Config.Parameters N) (e : FormantFilter N) (j : Nat) : ResonatorStep N :=
  let q := cfg.add cfg.formantQMin (cfg.mul e.regs.harm (cfg.sub cfg.formantQMax cfg.formantQMin))
  let f := cfg.min (e.lookup cfg cfg.vowel j) (cfg.mul cfg.formantFMax e.regs.sr)
  resonator cfg f e.regs.sr (cfg.div cfg.one q) (e.source cfg) (bankGet e.ic1 j cfg) (bankGet e.ic2 j cfg)

/-- The sum `y` of the three weighted bands (R296). -/
def FormantFilter.sum (cfg : Config.Parameters N) (e : FormantFilter N) : N :=
  (List.range 3).foldl
    (fun acc j => cfg.add acc (cfg.mul (e.lookup cfg cfg.formantAmp j) (e.resonance cfg j).band)) cfg.zero

/-- The reference body of E7 (R296). -/
def FormantFilter.body (cfg : Config.Parameters N) : EngineBody (FormantFilter N) N := fun e _ =>
  { state := { e with
      ph := phaseNext cfg e.ph (inc cfg e.regs.freq e.regs.sr)
      ic1 := bankMap (fun j _ => (e.resonance cfg j).ic1) e.ic1
      ic2 := bankMap (fun j _ => (e.resonance cfg j).ic2) e.ic2 }
    draws := 0, xL := e.sum cfg, xR := e.sum cfg }

/-- `E7.PRODUCE`: one call of `ENGINE_BODY[7]`, which is `FormantFilter.body` unless the configuration replaces it, then the output
stage (R168, R172). -/
def FormantFilter.produce (cfg : Config.Parameters N) (e : FormantFilter N) : Stereo N × FormantFilter N :=
  let b := (cfg.engineBody.formant.getD (FormantFilter.body cfg)) e (e.regs.draws cfg)
  let out := finish cfg 7 e.regs b
  (out.1, { b.state with regs := out.2 })

/-! ### The operations of E7 -/

/-- `E7.RESET` (R291). -/
def execE7Reset (s : State.Of N) (cfg : Config.Parameters N := by exact Sys2Proof.Config.reference) :
    ResultOf N := done { s with e7 := s.e7.reset cfg }

/-- `E7.SET_SR v` (R153). -/
def execE7SetSr (v : Data) (s : State.Of N) (cfg : Config.Parameters N := by exact Sys2Proof.Config.reference) :
    ResultOf N :=
  done { s with e7.regs := s.e7.regs.setSr cfg (cfg.num v) }

/-- `E7.SET_FREQ v` (R154). -/
def execE7SetFreq (v : Data) (s : State.Of N) (cfg : Config.Parameters N := by exact Sys2Proof.Config.reference) :
    ResultOf N :=
  done { s with e7.regs := s.e7.regs.setFreq cfg (cfg.num v) }

/-- `E7.SET_HARM v` (R155). -/
def execE7SetHarm (v : Data) (s : State.Of N) (cfg : Config.Parameters N := by exact Sys2Proof.Config.reference) :
    ResultOf N :=
  done { s with e7.regs := s.e7.regs.setHarm cfg (cfg.num v) }

/-- `E7.SET_TIMB v` (R156). -/
def execE7SetTimb (v : Data) (s : State.Of N) (cfg : Config.Parameters N := by exact Sys2Proof.Config.reference) :
    ResultOf N :=
  done { s with e7.regs := s.e7.regs.setTimb cfg (cfg.num v) }

/-- `E7.SET_MORPH v` (R157). -/
def execE7SetMorph (v : Data) (s : State.Of N) (cfg : Config.Parameters N := by exact Sys2Proof.Config.reference) :
    ResultOf N :=
  done { s with e7.regs := s.e7.regs.setMorph cfg (cfg.num v) }

/-- `E7.SET_LEVEL v` (R158). -/
def execE7SetLevel (v : Data) (s : State.Of N) (cfg : Config.Parameters N := by exact Sys2Proof.Config.reference) :
    ResultOf N :=
  done { s with e7.regs := s.e7.regs.setLevel cfg (cfg.num v) }

/-- `E7.PRODUCE` (R296): the pair in `RW` (R116). -/
def execE7Produce (s : State.Of N) (cfg : Config.Parameters N := by exact Sys2Proof.Config.reference) :
    ResultOf N :=
  doneWithPair { s with e7 := (s.e7.produce cfg).2 } (s.e7.produce cfg).1 cfg

end Sys2Proof.Machine
end

