-- ==== Sys2Proof/Machine/LfoUnit.lean ====
section
/-! DEFINITION. The low-frequency oscillator (45_envelopes_lfo.md, section 3). -/

namespace Sys2Proof.Machine

variable {N : Type} [DecidableEq N]

/-- `LFO.SET_SR` on the unit (R382). -/
def Lfo.setSr (cfg : Config.Parameters N) (u : Lfo N) (v : N) : Lfo N :=
  if cfg.isRate v then { u with sr := cfg.ftz v } else u

/-- `LFO.SET_FREQ` on the unit (R383). -/
def Lfo.setFreq (cfg : Config.Parameters N) (u : Lfo N) (v : N) : Lfo N :=
  { u with freq := cfg.ftz (cfg.san v cfg.zero (cfg.div u.sr cfg.two)) }

/-- `LFO.SET_WAVE` on the unit (R385). -/
def Lfo.setWave (cfg : Config.Parameters N) (u : Lfo N) (v : N) : Lfo N := { u with wave := waveOf cfg v }

/-- `LFO.SET_VAR` on the unit (R386). -/
def Lfo.setVar (cfg : Config.Parameters N) (u : Lfo N) (v : N) : Lfo N :=
  { u with variation := cfg.ftz (cfg.sanUnit v) }

/-- `LFO.RESET` on the unit (R387). -/
def Lfo.reset (cfg : Config.Parameters N) (u : Lfo N) : Lfo N := { u with ph := cfg.zero, rnd := cfg.zero }

/-- The triangle at phase `p` (R384). -/
def lfoTriangle (cfg : Config.Parameters N) (p : N) : N :=
  let p4 := cfg.mul (cfg.ofNat 4) p
  if cfg.lt p (cfg.ofRat 1 4) then p4
  else if cfg.lt p (cfg.ofRat 3 4) then cfg.sub cfg.two p4
  else cfg.sub p4 (cfg.ofNat 4)

/-- The step count `N` of the stepped waveform (R384, R386). -/
def lfoSteps (cfg : Config.Parameters N) (variation : N) : Int :=
  (Config.lfoStepMin : Int) + cfg.round (cfg.mul variation (cfg.ofNat (Config.lfoStepMax - Config.lfoStepMin)))

/-- The stepped waveform at phase `p` (R384). -/
def lfoStepped (cfg : Config.Parameters N) (variation p : N) : N :=
  let n := lfoSteps cfg variation
  let k := min (cfg.floor (cfg.mul p (cfg.ofInt n))) (n - 1)
  cfg.add (cfg.neg cfg.one) (cfg.div (cfg.ofInt (2 * k)) (cfg.ofInt (n - 1)))

/-- The value `y` returned by `PROCESS`, at the phase before the advance (R384). -/
def Lfo.value (cfg : Config.Parameters N) (u : Lfo N) : N :=
  match u.wave with
  | .sine => sinTurn cfg u.ph
  | .triangle => lfoTriangle cfg u.ph
  | .square => if cfg.lt u.ph (cfg.ofRat 1 2) then cfg.one else cfg.neg cfg.one
  | .stepped => lfoStepped cfg u.variation u.ph
  | .steppedRandom => u.rnd

/-- The unit after one sample period: the phase advances, and a wrap redraws `rnd` whatever the waveform (R384).
DESIGN CHOICE (log 31): the increment, the sum and the wrap are rounded at every call (R8). So a slow cycle is not `sr/freq`
calls long to within one call: from reset, 0.1 Hz at 48000 Hz first wraps at call 479400, 600 calls early. Below about
0.0014 Hz at 48000 Hz the phase stops at 0.5, never wraps and never redraws, where R388 says so of `freq = 0` alone. -/
def Lfo.process (cfg : Config.Parameters N) (u : Lfo N) : Lfo N :=
  let p2 := cfg.add u.ph (inc cfg u.freq u.sr)
  if cfg.le cfg.one p2 then
    { u with
      seed := cfg.rngStep u.seed
      rnd := cfg.ftz (rngBipolar cfg (cfg.rngStep u.seed))
      ph := cfg.ftz (cfg.wrap1 p2) }
  else { u with ph := cfg.ftz (cfg.wrap1 p2) }

/-! ### The operations of LFO -/

/-- `LFO.RESET` (R387). -/
def execLfoReset (s : State.Of N) (cfg : Config.Parameters N := by exact Sys2Proof.Config.reference) :
    ResultOf N := done { s with lfo := s.lfo.reset cfg }

/-- `LFO.SET_SR v` (R382). -/
def execLfoSetSr (v : Data) (s : State.Of N) (cfg : Config.Parameters N := by exact Sys2Proof.Config.reference) :
    ResultOf N :=
  done { s with lfo := s.lfo.setSr cfg (cfg.num v) }

/-- `LFO.SET_FREQ v` (R383). -/
def execLfoSetFreq (v : Data) (s : State.Of N) (cfg : Config.Parameters N := by exact Sys2Proof.Config.reference) :
    ResultOf N :=
  done { s with lfo := s.lfo.setFreq cfg (cfg.num v) }

/-- `LFO.PROCESS` (R384): the value in `RW[31:0]` (R116). -/
def execLfoProcess (s : State.Of N) (cfg : Config.Parameters N := by exact Sys2Proof.Config.reference) :
    ResultOf N :=
  doneWith { s with lfo := s.lfo.process cfg } (s.lfo.value cfg) cfg

/-- `LFO.SET_WAVE v` (R385). -/
def execLfoSetWave (v : Data) (s : State.Of N) (cfg : Config.Parameters N := by exact Sys2Proof.Config.reference) :
    ResultOf N :=
  done { s with lfo := s.lfo.setWave cfg (cfg.num v) }

/-- `LFO.SET_VAR v` (R386). -/
def execLfoSetVar (v : Data) (s : State.Of N) (cfg : Config.Parameters N := by exact Sys2Proof.Config.reference) :
    ResultOf N :=
  done { s with lfo := s.lfo.setVar cfg (cfg.num v) }

end Sys2Proof.Machine
end

