-- ==== Sys2Proof/Machine/MultiEngines.lean ====
section
/-! DEFINITION. Tone engines 4, 5, 8 and 9 (42_multi_oscillators.md): the spec's reference bodies, which a
configuration may replace (R172). -/

namespace Sys2Proof.Machine

variable {N : Type} [DecidableEq N]

/-! ## E4 supersaw_osc_bank -/

/-- `E4.RESET`: nine draws (R231). -/
def SupersawBank.reset (cfg : Config.Parameters N) (e : SupersawBank N) : SupersawBank N :=
  { regs := { e.regs with seed := rngSkip cfg 9 e.regs.seed }
    ph := ⟨drawPhases cfg 9 e.regs.seed, drawPhases_length cfg 9 _⟩ }

/-- The increment of saw `i` (R234). -/
def SupersawBank.dt (cfg : Config.Parameters N) (e : SupersawBank N) (i : Nat) : N :=
  let detune := cfg.mul (cfg.mul (tableAt cfg.ssDet i cfg) cfg.ssDetuneMax) e.regs.harm
  inc cfg (cfg.mul e.regs.freq (cfg.add cfg.one detune)) e.regs.sr

/-- The sample of saw `i` (R234). -/
def SupersawBank.saw (cfg : Config.Parameters N) (e : SupersawBank N) (i : Nat) : N :=
  cfg.lerp (blsaw cfg (bankGet e.ph i cfg) (e.dt cfg i)) (sinTurn cfg (bankGet e.ph i cfg)) e.regs.morph

/-- The gain of saw `i`: 1 for the centre saw, `side` for the others (R234). -/
def SupersawBank.gain (cfg : Config.Parameters N) (e : SupersawBank N) (i : Nat) : N :=
  if i = 4 then cfg.one
  else cfg.add cfg.ssSideMin (cfg.mul (cfg.sub cfg.one cfg.ssSideMin) e.regs.timb)

/-- The channel sums (R234). -/
def SupersawBank.sums (cfg : Config.Parameters N) (e : SupersawBank N) : Stereo N :=
  (List.range 9).foldl (fun acc i =>
    ⟨cfg.add acc.l (cfg.mul (cfg.mul (e.gain cfg i) (cfg.sub cfg.one (tableAt cfg.ssPan i cfg))) (e.saw cfg i)),
     cfg.add acc.r (cfg.mul (cfg.mul (e.gain cfg i) (tableAt cfg.ssPan i cfg)) (e.saw cfg i))⟩)
    ⟨cfg.zero, cfg.zero⟩

/-- The reference body of E4 (R234). -/
def SupersawBank.body (cfg : Config.Parameters N) : EngineBody (SupersawBank N) N := fun e _ =>
  { state := { e with ph := bankMap (fun i p => phaseNext cfg p (e.dt cfg i)) e.ph }
    draws := 0, xL := cfg.div (e.sums cfg).l cfg.ssNorm, xR := cfg.div (e.sums cfg).r cfg.ssNorm }

/-- `E4.PRODUCE`: one call of `ENGINE_BODY[4]`, which is `SupersawBank.body` unless the configuration replaces it, then the output
stage (R168, R172). -/
def SupersawBank.produce (cfg : Config.Parameters N) (e : SupersawBank N) : Stereo N × SupersawBank N :=
  let b := (cfg.engineBody.supersaw.getD (SupersawBank.body cfg)) e (e.regs.draws cfg)
  let out := finish cfg 4 e.regs b
  (out.1, { b.state with regs := out.2 })

/-! ### The operations of E4 -/

/-- `E4.RESET` (R231). -/
def execE4Reset (s : State.Of N) (cfg : Config.Parameters N := by exact Sys2Proof.Config.reference) :
    ResultOf N :=
  done { s with e4 := s.e4.reset cfg }

/-- `E4.SET_SR v` (R153). -/
def execE4SetSr (v : Data) (s : State.Of N) (cfg : Config.Parameters N := by exact Sys2Proof.Config.reference) :
    ResultOf N :=
  done { s with e4.regs := s.e4.regs.setSr cfg (cfg.num v) }

/-- `E4.SET_FREQ v` (R154). -/
def execE4SetFreq (v : Data) (s : State.Of N) (cfg : Config.Parameters N := by exact Sys2Proof.Config.reference) :
    ResultOf N :=
  done { s with e4.regs := s.e4.regs.setFreq cfg (cfg.num v) }

/-- `E4.SET_HARM v` (R155). -/
def execE4SetHarm (v : Data) (s : State.Of N) (cfg : Config.Parameters N := by exact Sys2Proof.Config.reference) :
    ResultOf N :=
  done { s with e4.regs := s.e4.regs.setHarm cfg (cfg.num v) }

/-- `E4.SET_TIMB v` (R156). -/
def execE4SetTimb (v : Data) (s : State.Of N) (cfg : Config.Parameters N := by exact Sys2Proof.Config.reference) :
    ResultOf N :=
  done { s with e4.regs := s.e4.regs.setTimb cfg (cfg.num v) }

/-- `E4.SET_MORPH v` (R157). -/
def execE4SetMorph (v : Data) (s : State.Of N) (cfg : Config.Parameters N := by exact Sys2Proof.Config.reference) :
    ResultOf N :=
  done { s with e4.regs := s.e4.regs.setMorph cfg (cfg.num v) }

/-- `E4.SET_LEVEL v` (R158). -/
def execE4SetLevel (v : Data) (s : State.Of N) (cfg : Config.Parameters N := by exact Sys2Proof.Config.reference) :
    ResultOf N :=
  done { s with e4.regs := s.e4.regs.setLevel cfg (cfg.num v) }

/-- `E4.PRODUCE` (R234): the pair in `RW` (R116). -/
def execE4Produce (s : State.Of N) (cfg : Config.Parameters N := by exact Sys2Proof.Config.reference) :
    ResultOf N :=
  doneWithPair { s with e4 := (s.e4.produce cfg).2 } (s.e4.produce cfg).1 cfg

/-! ## E5 virtual_analog_osc -/

/-- `E5.RESET` (R241). -/
def VirtualAnalog.reset (cfg : Config.Parameters N) (e : VirtualAnalog N) : VirtualAnalog N :=
  { e with phA := cfg.zero, phB := cfg.zero }

/-- The interval of oscillator B in semitones (R245). -/
def VirtualAnalog.semi (cfg : Config.Parameters N) (e : VirtualAnalog N) : N :=
  let x := cfg.mul e.regs.harm (cfg.ofNat 4)
  let i := min (cfg.floor x) 3
  cfg.lerp (tableAt cfg.vaInt i.toNat cfg) (tableAt cfg.vaInt (i.toNat + 1) cfg) (cfg.sub x (cfg.ofInt i))

/-- The reference body of E5 (R245).
DESIGN CHOICE (log 46): R246 says that at `harm = 0` the two oscillators run in phase; they do where their phases are equal, as
after a reset, and not where another `harm` has moved them apart. The model follows R245, which moves each by its own
increment. Nor do they run at one frequency in a configuration whose `VA_INT[0]` is not 0. -/
def VirtualAnalog.body (cfg : Config.Parameters N) : EngineBody (VirtualAnalog N) N := fun e _ =>
  let fB := cfg.mul e.regs.freq (cfg.pow cfg.two (cfg.div (e.semi cfg) (cfg.ofNat 12)))
  let dtA := inc cfg e.regs.freq e.regs.sr
  let dtB := inc cfg fB e.regs.sr
  { state := { e with phA := phaseNext cfg e.phA dtA, phB := phaseNext cfg e.phB dtB }
    draws := 0
    xL := cfg.lerp (blsaw cfg e.phA dtA) (blsquare cfg e.phA dtA) e.regs.timb
    xR := cfg.lerp (blsaw cfg e.phB dtB) (blsquare cfg e.phB dtB) e.regs.morph }

/-- `E5.PRODUCE`: one call of `ENGINE_BODY[5]`, which is `VirtualAnalog.body` unless the configuration replaces it, then the output
stage (R168, R172). -/
def VirtualAnalog.produce (cfg : Config.Parameters N) (e : VirtualAnalog N) : Stereo N × VirtualAnalog N :=
  let b := (cfg.engineBody.virtualAnalog.getD (VirtualAnalog.body cfg)) e (e.regs.draws cfg)
  let out := finish cfg 5 e.regs b
  (out.1, { b.state with regs := out.2 })

/-! ### The operations of E5 -/

/-- `E5.RESET` (R241). -/
def execE5Reset (s : State.Of N) (cfg : Config.Parameters N := by exact Sys2Proof.Config.reference) :
    ResultOf N := done { s with e5 := s.e5.reset cfg }

/-- `E5.SET_SR v` (R153). -/
def execE5SetSr (v : Data) (s : State.Of N) (cfg : Config.Parameters N := by exact Sys2Proof.Config.reference) :
    ResultOf N :=
  done { s with e5.regs := s.e5.regs.setSr cfg (cfg.num v) }

/-- `E5.SET_FREQ v` (R154). -/
def execE5SetFreq (v : Data) (s : State.Of N) (cfg : Config.Parameters N := by exact Sys2Proof.Config.reference) :
    ResultOf N :=
  done { s with e5.regs := s.e5.regs.setFreq cfg (cfg.num v) }

/-- `E5.SET_HARM v` (R155). -/
def execE5SetHarm (v : Data) (s : State.Of N) (cfg : Config.Parameters N := by exact Sys2Proof.Config.reference) :
    ResultOf N :=
  done { s with e5.regs := s.e5.regs.setHarm cfg (cfg.num v) }

/-- `E5.SET_TIMB v` (R156). -/
def execE5SetTimb (v : Data) (s : State.Of N) (cfg : Config.Parameters N := by exact Sys2Proof.Config.reference) :
    ResultOf N :=
  done { s with e5.regs := s.e5.regs.setTimb cfg (cfg.num v) }

/-- `E5.SET_MORPH v` (R157). -/
def execE5SetMorph (v : Data) (s : State.Of N) (cfg : Config.Parameters N := by exact Sys2Proof.Config.reference) :
    ResultOf N :=
  done { s with e5.regs := s.e5.regs.setMorph cfg (cfg.num v) }

/-- `E5.SET_LEVEL v` (R158). -/
def execE5SetLevel (v : Data) (s : State.Of N) (cfg : Config.Parameters N := by exact Sys2Proof.Config.reference) :
    ResultOf N :=
  done { s with e5.regs := s.e5.regs.setLevel cfg (cfg.num v) }

/-- `E5.PRODUCE` (R245): the pair in `RW` (R116). -/
def execE5Produce (s : State.Of N) (cfg : Config.Parameters N := by exact Sys2Proof.Config.reference) :
    ResultOf N :=
  doneWithPair { s with e5 := (s.e5.produce cfg).2 } (s.e5.produce cfg).1 cfg

/-! ## E8 additive_osc_bank -/

/-- `E8.RESET`: thirty-two draws, detune and phase of each partial in turn (R251). -/
def AdditiveBank.reset (cfg : Config.Parameters N) (e : AdditiveBank N) : AdditiveBank N :=
  { regs := { e.regs with seed := rngSkip cfg 32 e.regs.seed }
    ph := ⟨drawPartialPhases cfg 16 e.regs.seed, drawPartialPhases_length cfg 16 _⟩
    det := ⟨drawDetunes cfg 16 e.regs.seed, drawDetunes_length cfg 16 _⟩ }

/-- The partial count `N` (R253, R254). -/
def AdditiveBank.count (cfg : Config.Parameters N) (e : AdditiveBank N) : Nat :=
  ((Config.addNMin : Int) + cfg.round (cfg.mul e.regs.harm (cfg.ofNat (Config.addNMax - Config.addNMin)))).toNat

/-- The amplitude of partial `n` (R254). -/
def AdditiveBank.amp (cfg : Config.Parameters N) (e : AdditiveBank N) (n : Nat) : N :=
  let a := cfg.pow (cfg.ofNat n) (cfg.neg (cfg.add cfg.one (cfg.mul cfg.addSlope e.regs.timb)))
  if n % 2 = 0 then cfg.mul a (cfg.sub cfg.one e.regs.morph) else a

/-- The frequency of partial `n`, `n·freq·det[n]` (R254). -/
def AdditiveBank.freqOf (cfg : Config.Parameters N) (e : AdditiveBank N) (n : Nat) : N :=
  cfg.mul (cfg.mul (cfg.ofNat n) e.regs.freq) (bankGet e.det (n - 1) cfg)

/-- The sum `x` (left) and the normaliser `norm` (right) over partials 1 to `N` (R254). -/
def AdditiveBank.sums (cfg : Config.Parameters N) (e : AdditiveBank N) : Stereo N :=
  (List.range (e.count cfg)).foldl (fun acc j =>
    let n := j + 1
    ⟨if cfg.lt (e.freqOf cfg n) (cfg.div e.regs.sr cfg.two) then
        cfg.add acc.l (cfg.mul (e.amp cfg n) (sinTurn cfg (bankGet e.ph j cfg)))
      else acc.l,
     cfg.add acc.r (e.amp cfg n)⟩) ⟨cfg.zero, cfg.zero⟩

/-- The reference body of E8 (R254).
DESIGN CHOICE (log 45): R254 says that `norm >= 1` because `POW(1, ..) = 1`, so that the division is safe and `|x| <= 1`. The
premise on `POW` is R6's, exact powers of 2 (D7), and not that; so with another admissible `POW` `norm` can be 0 and `x` exceed
1. The model follows R254's pseudocode. With the reference `POW`, `POW(1, y)` is 1. -/
def AdditiveBank.body (cfg : Config.Parameters N) : EngineBody (AdditiveBank N) N := fun e _ =>
  let x := cfg.div (e.sums cfg).l (e.sums cfg).r
  { state := { e with
      ph := bankMap (fun j p => phaseNext cfg p (inc cfg (e.freqOf cfg (j + 1)) e.regs.sr)) e.ph }
    draws := 0, xL := x, xR := x }

/-- `E8.PRODUCE`: one call of `ENGINE_BODY[8]`, which is `AdditiveBank.body` unless the configuration replaces it, then the output
stage (R168, R172). -/
def AdditiveBank.produce (cfg : Config.Parameters N) (e : AdditiveBank N) : Stereo N × AdditiveBank N :=
  let b := (cfg.engineBody.additive.getD (AdditiveBank.body cfg)) e (e.regs.draws cfg)
  let out := finish cfg 8 e.regs b
  (out.1, { b.state with regs := out.2 })

/-! ### The operations of E8 -/

/-- `E8.RESET` (R251). -/
def execE8Reset (s : State.Of N) (cfg : Config.Parameters N := by exact Sys2Proof.Config.reference) :
    ResultOf N :=
  done { s with e8 := s.e8.reset cfg }

/-- `E8.SET_SR v` (R153). -/
def execE8SetSr (v : Data) (s : State.Of N) (cfg : Config.Parameters N := by exact Sys2Proof.Config.reference) :
    ResultOf N :=
  done { s with e8.regs := s.e8.regs.setSr cfg (cfg.num v) }

/-- `E8.SET_FREQ v` (R154). -/
def execE8SetFreq (v : Data) (s : State.Of N) (cfg : Config.Parameters N := by exact Sys2Proof.Config.reference) :
    ResultOf N :=
  done { s with e8.regs := s.e8.regs.setFreq cfg (cfg.num v) }

/-- `E8.SET_HARM v` (R155). -/
def execE8SetHarm (v : Data) (s : State.Of N) (cfg : Config.Parameters N := by exact Sys2Proof.Config.reference) :
    ResultOf N :=
  done { s with e8.regs := s.e8.regs.setHarm cfg (cfg.num v) }

/-- `E8.SET_TIMB v` (R156). -/
def execE8SetTimb (v : Data) (s : State.Of N) (cfg : Config.Parameters N := by exact Sys2Proof.Config.reference) :
    ResultOf N :=
  done { s with e8.regs := s.e8.regs.setTimb cfg (cfg.num v) }

/-- `E8.SET_MORPH v` (R157). -/
def execE8SetMorph (v : Data) (s : State.Of N) (cfg : Config.Parameters N := by exact Sys2Proof.Config.reference) :
    ResultOf N :=
  done { s with e8.regs := s.e8.regs.setMorph cfg (cfg.num v) }

/-- `E8.SET_LEVEL v` (R158). -/
def execE8SetLevel (v : Data) (s : State.Of N) (cfg : Config.Parameters N := by exact Sys2Proof.Config.reference) :
    ResultOf N :=
  done { s with e8.regs := s.e8.regs.setLevel cfg (cfg.num v) }

/-- `E8.PRODUCE` (R254): the pair in `RW` (R116). -/
def execE8Produce (s : State.Of N) (cfg : Config.Parameters N := by exact Sys2Proof.Config.reference) :
    ResultOf N :=
  doneWithPair { s with e8 := (s.e8.produce cfg).2 } (s.e8.produce cfg).1 cfg

/-! ## E9 chord_osc_stack -/

/-- `E9.RESET` (R261). -/
def ChordStack.reset (cfg : Config.Parameters N) (e : ChordStack N) : ChordStack N :=
  { e with ph := Bank.fill 4 cfg.zero }

/-- The interval of voice `v` in semitones (R265). -/
def ChordStack.semi (cfg : Config.Parameters N) (e : ChordStack N) (v : Nat) : N :=
  let x := cfg.mul e.regs.harm (cfg.ofNat 7)
  let i := min (cfg.floor x) 6
  cfg.lerp (tableAt2 cfg.chordTab i.toNat v cfg) (tableAt2 cfg.chordTab (i.toNat + 1) v cfg) (cfg.sub x (cfg.ofInt i))

/-- The increment of voice `v` (R265). -/
def ChordStack.dt (cfg : Config.Parameters N) (e : ChordStack N) (v : Nat) : N :=
  inc cfg (cfg.mul (cfg.mul e.regs.freq (cfg.pow cfg.two (cfg.div (e.semi cfg v) (cfg.ofNat 12))))
    (cfg.add cfg.one (tableAt cfg.chordDet v cfg))) e.regs.sr

/-- The sample of voice `v` (R265). -/
def ChordStack.voice (cfg : Config.Parameters N) (e : ChordStack N) (v : Nat) : N :=
  let p := bankGet e.ph v cfg
  let edge := cfg.lerp (blsaw cfg p (e.dt cfg v)) (blsquare cfg p (e.dt cfg v)) e.regs.timb
  cfg.lerp edge (sinTurn cfg p) e.regs.morph

/-- The sum of the four voices (R265). -/
def ChordStack.sum (cfg : Config.Parameters N) (e : ChordStack N) : N :=
  (List.range 4).foldl (fun acc v => cfg.add acc (e.voice cfg v)) cfg.zero

/-- The reference body of E9 (R265). -/
def ChordStack.body (cfg : Config.Parameters N) : EngineBody (ChordStack N) N := fun e _ =>
  let x := cfg.div (e.sum cfg) (cfg.ofNat 4)
  { state := { e with ph := bankMap (fun v p => phaseNext cfg p (e.dt cfg v)) e.ph }
    draws := 0, xL := x, xR := x }

/-- `E9.PRODUCE`: one call of `ENGINE_BODY[9]`, which is `ChordStack.body` unless the configuration replaces it, then the output
stage (R168, R172). -/
def ChordStack.produce (cfg : Config.Parameters N) (e : ChordStack N) : Stereo N × ChordStack N :=
  let b := (cfg.engineBody.chord.getD (ChordStack.body cfg)) e (e.regs.draws cfg)
  let out := finish cfg 9 e.regs b
  (out.1, { b.state with regs := out.2 })

/-! ### The operations of E9 -/

/-- `E9.RESET` (R261). -/
def execE9Reset (s : State.Of N) (cfg : Config.Parameters N := by exact Sys2Proof.Config.reference) :
    ResultOf N := done { s with e9 := s.e9.reset cfg }

/-- `E9.SET_SR v` (R153). -/
def execE9SetSr (v : Data) (s : State.Of N) (cfg : Config.Parameters N := by exact Sys2Proof.Config.reference) :
    ResultOf N :=
  done { s with e9.regs := s.e9.regs.setSr cfg (cfg.num v) }

/-- `E9.SET_FREQ v` (R154). -/
def execE9SetFreq (v : Data) (s : State.Of N) (cfg : Config.Parameters N := by exact Sys2Proof.Config.reference) :
    ResultOf N :=
  done { s with e9.regs := s.e9.regs.setFreq cfg (cfg.num v) }

/-- `E9.SET_HARM v` (R155). -/
def execE9SetHarm (v : Data) (s : State.Of N) (cfg : Config.Parameters N := by exact Sys2Proof.Config.reference) :
    ResultOf N :=
  done { s with e9.regs := s.e9.regs.setHarm cfg (cfg.num v) }

/-- `E9.SET_TIMB v` (R156). -/
def execE9SetTimb (v : Data) (s : State.Of N) (cfg : Config.Parameters N := by exact Sys2Proof.Config.reference) :
    ResultOf N :=
  done { s with e9.regs := s.e9.regs.setTimb cfg (cfg.num v) }

/-- `E9.SET_MORPH v` (R157). -/
def execE9SetMorph (v : Data) (s : State.Of N) (cfg : Config.Parameters N := by exact Sys2Proof.Config.reference) :
    ResultOf N :=
  done { s with e9.regs := s.e9.regs.setMorph cfg (cfg.num v) }

/-- `E9.SET_LEVEL v` (R158). -/
def execE9SetLevel (v : Data) (s : State.Of N) (cfg : Config.Parameters N := by exact Sys2Proof.Config.reference) :
    ResultOf N :=
  done { s with e9.regs := s.e9.regs.setLevel cfg (cfg.num v) }

/-- `E9.PRODUCE` (R265): the pair in `RW` (R116). -/
def execE9Produce (s : State.Of N) (cfg : Config.Parameters N := by exact Sys2Proof.Config.reference) :
    ResultOf N :=
  doneWithPair { s with e9 := (s.e9.produce cfg).2 } (s.e9.produce cfg).1 cfg

end Sys2Proof.Machine
end

