-- ==== Sys2Proof/Machine/ReverbUnit.lean ====
section
/-! DEFINITION. The comb and allpass reverb (48_reverb.md). -/

namespace Sys2Proof.Machine

variable {N : Type} [DecidableEq N]

/-- `REV_COMB_LEN[c][j]` (R462). -/
def revCombLen (cfg : Config.Parameters N) (c : Chan) (j : Nat) : Nat :=
  match c with
  | .left => cfg.revCombLenL.getD j 1
  | .right => cfg.revCombLenR.getD j 1

/-- `REV_AP_LEN[c][j]` (R462). -/
def revApLen (cfg : Config.Parameters N) (c : Chan) (j : Nat) : Nat :=
  match c with
  | .left => cfg.revApLenL.getD j 1
  | .right => cfg.revApLenR.getD j 1

/-- The word of a line of `len` words at its cursor: a comb's output `y` (R464), an allpass's `d` (R465). -/
def Line.out (cfg : Config.Parameters N) (l : Line N) (len : Nat) : N := memRead len l.buf l.idx cfg

/-- The line after `v` is written at the cursor and the cursor advances (R464, R465). -/
def Line.push (cfg : Config.Parameters N) (l : Line N) (len : Nat) (v : N) : Line N :=
  ⟨memWrite len l.buf l.idx v cfg, cursorNext len l.idx⟩

/-- A comb of `len` words after the input `x` with feedback `fb` (R464). -/
def Line.comb (cfg : Config.Parameters N) (l : Line N) (len : Nat) (fb x : N) : Line N :=
  l.push cfg len (cfg.add x (cfg.mul fb (l.out cfg len)))

/-- The value `vn = t + g·d` an allpass stores for the input `t` (R465). -/
def Line.apIn (cfg : Config.Parameters N) (l : Line N) (len : Nat) (t : N) : N :=
  cfg.add t (cfg.mul cfg.revApG (l.out cfg len))

/-- The output `d - g·vn` of an allpass (R465). -/
def Line.apOut (cfg : Config.Parameters N) (l : Line N) (len : Nat) (t : N) : N :=
  cfg.sub (l.out cfg len) (cfg.mul cfg.revApG (l.apIn cfg len t))

/-- An allpass after the input `t` (R465). -/
def Line.allpass (cfg : Config.Parameters N) (l : Line N) (len : Nat) (t : N) : Line N :=
  l.push cfg len (l.apIn cfg len t)

/-- `REV.SET_AMOUNT` on the unit (R463). -/
def Reverb.setAmount (cfg : Config.Parameters N) (u : Reverb N) (v : N) : Reverb N :=
  { u with amount := cfg.ftz (cfg.sanUnit v) }

/-- `REV.RESET` on the unit (R467). -/
def Reverb.reset (u : Reverb N) : Reverb N := { u with ch := ⟨ReverbChannel.clear, ReverbChannel.clear⟩ }

/-- `t` after the four combs, `REV_COMB_MIX·acc` (R466). -/
def ReverbChannel.combs (cfg : Config.Parameters N) (ch : ReverbChannel N) (c : Chan) : N :=
  let acc := cfg.add (cfg.add cfg.zero (ch.comb0.out cfg (revCombLen cfg c 0))) (ch.comb1.out cfg (revCombLen cfg c 1))
  cfg.mul cfg.revCombMix (cfg.add (cfg.add acc (ch.comb2.out cfg (revCombLen cfg c 2)))
    (ch.comb3.out cfg (revCombLen cfg c 3)))

/-- `t` after the first allpass (R466). -/
def ReverbChannel.first (cfg : Config.Parameters N) (ch : ReverbChannel N) (c : Chan) : N :=
  ch.ap0.apOut cfg (revApLen cfg c 0) (ch.combs cfg c)

/-- `t` after the second allpass (R466). -/
def ReverbChannel.second (cfg : Config.Parameters N) (ch : ReverbChannel N) (c : Chan) : N :=
  ch.ap1.apOut cfg (revApLen cfg c 1) (ch.first cfg c)

/-- The comb feedback `fb` (R466). -/
def Reverb.fb (cfg : Config.Parameters N) (u : Reverb N) : N :=
  cfg.add cfg.revFbBase (cfg.mul cfg.revFbSpan u.amount)

/-- The value `REV.PROCESS` returns for the sample `x` of channel `c` (R466). -/
def Reverb.output (cfg : Config.Parameters N) (u : Reverb N) (c : Chan) (x : N) : N :=
  dryWet cfg u.amount x (fxSat cfg ((stereoGet u.ch c).second cfg c))

/-- The unit after one sample `x` of channel `c` (R466). -/
def Reverb.process (cfg : Config.Parameters N) (u : Reverb N) (c : Chan) (x : N) : Reverb N :=
  let ch := stereoGet u.ch c
  { u with ch := stereoSet u.ch c (
      { comb0 := ch.comb0.comb cfg (revCombLen cfg c 0) (u.fb cfg) x
        comb1 := ch.comb1.comb cfg (revCombLen cfg c 1) (u.fb cfg) x
        comb2 := ch.comb2.comb cfg (revCombLen cfg c 2) (u.fb cfg) x
        comb3 := ch.comb3.comb cfg (revCombLen cfg c 3) (u.fb cfg) x
        ap0 := ch.ap0.allpass cfg (revApLen cfg c 0) (ch.combs cfg c)
        ap1 := ch.ap1.allpass cfg (revApLen cfg c 1) (ch.first cfg c) } : ReverbChannel N) }

/-! ### The operations of REV -/

/-- `REV.RESET` (R467). -/
def execRevReset (s : State.Of N) :
    ResultOf N := done { s with rev := s.rev.reset }

/-- `REV.PROCESS c, v` (R466): the output of channel `c` in `RW[31:0]` (R116). -/
def execRevProcess (c : Idx) (v : Data) (s : State.Of N) (cfg : Config.Parameters N := by exact Sys2Proof.Config.reference) :
    ResultOf N :=
  doneWith { s with rev := s.rev.process cfg (chanOf c) (sampleOf cfg v) }
    (s.rev.output cfg (chanOf c) (sampleOf cfg v)) cfg

/-- `REV.SET_AMOUNT v` (R463). -/
def execRevSetAmount (v : Data) (s : State.Of N) (cfg : Config.Parameters N := by exact Sys2Proof.Config.reference) :
    ResultOf N :=
  done { s with rev := s.rev.setAmount cfg (cfg.num v) }

end Sys2Proof.Machine
end

