-- ==== Sys2Proof/Machine/StringPwm.lean ====
section
/-! DEFINITION. Tone engines 10 and 11 (44_string_pwm.md): the spec's reference bodies, which a
configuration may replace (R172). -/

namespace Sys2Proof.Machine

variable {N : Type} [DecidableEq N]

/-! ## E10 plucked_string_osc -/

/-- `E10.RESET` (R311). -/
def PluckedString.reset (cfg : Config.Parameters N) (e : PluckedString N) : PluckedString N :=
  { e with bufA := [], bufB := [], w := 0, lpA := cfg.zero, lpB := cfg.zero, apz := cfg.zero, bow := cfg.zero,
           excnt := 0 }

/-- `strlen(f, sr)`, the line length in samples (R313). -/
def strlen (cfg : Config.Parameters N) (f sr : N) : Nat :=
  if cfg.le (cfg.mul f (cfg.ofNat Config.strLMax)) sr then Config.strLMax
  else (clampInt (cfg.round (cfg.div sr f)) Config.strLMin Config.strLMax).toNat

def PluckedString.lenA (cfg : Config.Parameters N) (e : PluckedString N) : Nat := strlen cfg e.regs.freq e.regs.sr

def PluckedString.lenB (cfg : Config.Parameters N) (e : PluckedString N) : Nat :=
  strlen cfg (cfg.mul e.regs.freq (cfg.add cfg.one cfg.strDetune)) e.regs.sr

/-- The smoothed noise after this sample, whose white noise `n1` is `2·draws 0 - 1` (R315). -/
def PluckedString.bowNext (cfg : Config.Parameters N) (e : PluckedString N) (draws : Nat → N) : N :=
  cfg.ftz (cfg.add e.bow (cfg.mul cfg.strBowA (cfg.sub (bipolar cfg (draws 0)) e.bow)))

/-- The excitation `exc` (R315). -/
def PluckedString.excitation (cfg : Config.Parameters N) (e : PluckedString N) (draws : Nat → N) : N :=
  let strike := if e.excnt = 0 then cfg.one else cfg.zero
  let pluck := cfg.mul cfg.strExc (bipolar cfg (draws 0))
  let bowx := cfg.mul (cfg.mul cfg.strExc cfg.strBowGain) (e.bowNext cfg draws)
  if cfg.le e.regs.morph (cfg.ofRat 1 2) then cfg.lerp pluck bowx (cfg.mul cfg.two e.regs.morph)
  else cfg.lerp bowx strike (cfg.sub (cfg.mul cfg.two e.regs.morph) cfg.one)

/-- The excitation position in samples of a line of length `len`, `max(1, round(pos·len))` (R316). -/
def PluckedString.position (cfg : Config.Parameters N) (e : PluckedString N) (len : Nat) : Int :=
  let pos := cfg.add cfg.strPosMin (cfg.mul (cfg.sub (cfg.ofRat 1 2) cfg.strPosMin) e.regs.timb)
  max 1 (cfg.round (cfg.mul pos (cfg.ofNat len)))

/-- The word `d` samples before the write cursor (R84). -/
def PluckedString.tap (cfg : Config.Parameters N) (e : PluckedString N) (buf : Memory N) (d : Int) : N :=
  memRead cfg.strCap buf ((e.w : Int) - d) cfg

/-- A new damping filter state, for the line output `d` (R316). -/
def PluckedString.damp (cfg : Config.Parameters N) (e : PluckedString N) (lp d : N) : N :=
  let a := cfg.add cfg.strDampMin (cfg.mul cfg.strDampSpan e.regs.harm)
  cfg.ftz (cfg.add lp (cfg.mul a (cfg.sub d lp)))

/-- The output of line A, the comb of two taps (R316). -/
def PluckedString.outA (cfg : Config.Parameters N) (e : PluckedString N) : N :=
  cfg.sub (e.tap cfg e.bufA ((e.lenA cfg : Int) - e.position cfg (e.lenA cfg))) (e.tap cfg e.bufA (e.lenA cfg))

/-- The output of line B before the allpass (R316). -/
def PluckedString.outB (cfg : Config.Parameters N) (e : PluckedString N) : N :=
  cfg.sub (e.tap cfg e.bufB ((e.lenB cfg : Int) - e.position cfg (e.lenB cfg))) (e.tap cfg e.bufB (e.lenB cfg))

/-- The allpass output on the right channel (R316). -/
def PluckedString.allpass (cfg : Config.Parameters N) (e : PluckedString N) : N :=
  cfg.add (cfg.mul (cfg.neg cfg.strApG) (e.outB cfg)) e.apz

/-- The reference body of E10 (R315, R316). -/
def PluckedString.body (cfg : Config.Parameters N) : EngineBody (PluckedString N) N := fun e draws =>
  let lpA := e.damp cfg e.lpA (e.tap cfg e.bufA (e.lenA cfg))
  let lpB := e.damp cfg e.lpB (e.tap cfg e.bufB (e.lenB cfg))
  let exc := e.excitation cfg draws
  { state := { e with
      bufA := memWrite cfg.strCap e.bufA e.w (cfg.add exc (cfg.mul cfg.strFb lpA)) cfg
      bufB := memWrite cfg.strCap e.bufB e.w (cfg.add exc (cfg.mul cfg.strFb lpB)) cfg
      w := cursorNext cfg.strCap e.w
      lpA := lpA
      lpB := lpB
      apz := cfg.ftz (cfg.add (e.outB cfg) (cfg.mul cfg.strApG (e.allpass cfg)))
      bow := e.bowNext cfg draws
      excnt := (e.excnt + 1) % cfg.strStrikePeriod }
    draws := 1, xL := e.outA cfg, xR := e.allpass cfg }

/-- `E10.PRODUCE`: one call of `ENGINE_BODY[10]`, which is `PluckedString.body` unless the configuration replaces it, then the output
stage (R168, R172). -/
def PluckedString.produce (cfg : Config.Parameters N) (e : PluckedString N) : Stereo N × PluckedString N :=
  let b := (cfg.engineBody.pluckedString.getD (PluckedString.body cfg)) e (e.regs.draws cfg)
  let out := finish cfg 10 e.regs b
  (out.1, { b.state with regs := out.2 })

/-! ### The operations of E10 -/

/-- `E10.RESET` (R311). -/
def execE10Reset (s : State.Of N) (cfg : Config.Parameters N := by exact Sys2Proof.Config.reference) :
    ResultOf N := done { s with e10 := s.e10.reset cfg }

/-- `E10.SET_SR v` (R153). -/
def execE10SetSr (v : Data) (s : State.Of N) (cfg : Config.Parameters N := by exact Sys2Proof.Config.reference) :
    ResultOf N :=
  done { s with e10.regs := s.e10.regs.setSr cfg (cfg.num v) }

/-- `E10.SET_FREQ v` (R154). -/
def execE10SetFreq (v : Data) (s : State.Of N) (cfg : Config.Parameters N := by exact Sys2Proof.Config.reference) :
    ResultOf N :=
  done { s with e10.regs := s.e10.regs.setFreq cfg (cfg.num v) }

/-- `E10.SET_HARM v` (R155). -/
def execE10SetHarm (v : Data) (s : State.Of N) (cfg : Config.Parameters N := by exact Sys2Proof.Config.reference) :
    ResultOf N :=
  done { s with e10.regs := s.e10.regs.setHarm cfg (cfg.num v) }

/-- `E10.SET_TIMB v` (R156). -/
def execE10SetTimb (v : Data) (s : State.Of N) (cfg : Config.Parameters N := by exact Sys2Proof.Config.reference) :
    ResultOf N :=
  done { s with e10.regs := s.e10.regs.setTimb cfg (cfg.num v) }

/-- `E10.SET_MORPH v` (R157). -/
def execE10SetMorph (v : Data) (s : State.Of N) (cfg : Config.Parameters N := by exact Sys2Proof.Config.reference) :
    ResultOf N :=
  done { s with e10.regs := s.e10.regs.setMorph cfg (cfg.num v) }

/-- `E10.SET_LEVEL v` (R158). -/
def execE10SetLevel (v : Data) (s : State.Of N) (cfg : Config.Parameters N := by exact Sys2Proof.Config.reference) :
    ResultOf N :=
  done { s with e10.regs := s.e10.regs.setLevel cfg (cfg.num v) }

/-- `E10.PRODUCE` (R316): the pair in `RW` (R116). -/
def execE10Produce (s : State.Of N) (cfg : Config.Parameters N := by exact Sys2Proof.Config.reference) :
    ResultOf N :=
  doneWithPair { s with e10 := (s.e10.produce cfg).2 } (s.e10.produce cfg).1 cfg

/-! ## E11 pwm_osc_gen -/

/-- `E11.RESET` (R331). -/
def PwmOsc.reset (cfg : Config.Parameters N) (e : PwmOsc N) : PwmOsc N :=
  { e with ch := ⟨PwmChannel.clear cfg, PwmChannel.clear cfg⟩, dcnt := 0 }

/-- The drift target of a channel: drawn anew when `dcnt` = 0, the left one first (R334). -/
def PwmOsc.targetNext (cfg : Config.Parameters N) (e : PwmOsc N) (draws : Nat → N) (c : Chan) : N :=
  if e.dcnt = 0 then
    (match c with
      | .left => cfg.ftz (bipolar cfg (draws 0))
      | .right => cfg.ftz (bipolar cfg (draws 1)))
  else (stereoGet e.ch c).target

/-- The drift value of a channel after this sample's update (R334). -/
def PwmOsc.driftNext (cfg : Config.Parameters N) (e : PwmOsc N) (draws : Nat → N) (c : Chan) : N :=
  let drift := (stereoGet e.ch c).drift
  cfg.ftz (cfg.add drift (cfg.mul cfg.pwmDriftSlew (cfg.sub (e.targetNext cfg draws c) drift)))

/-- The increment of a channel (R335). -/
def PwmOsc.dt (cfg : Config.Parameters N) (e : PwmOsc N) : Chan → N
  | .left => inc cfg e.regs.freq e.regs.sr
  | .right => inc cfg (cfg.mul e.regs.freq (cfg.add cfg.one (cfg.mul e.regs.harm cfg.pwmSpread))) e.regs.sr

/-- The pulse `v` of a channel, before the DC blocker (R335).
DESIGN CHOICE (log 30): `p` is rounded like every result (R8), and just below 1 the spacing of the words is 2^-24. In R335's
example the first `p` is 1 - 3·2^-24 on the left and 1 - 130·2^-24 on the right, and the first pair is about (-0.000078,
-0.003362), where the rule gives (-0.000083, -0.003349).
DESIGN CHOICE (log 34): R336 says that at `freq = 0` the pulse is constant; R335's pseudocode moves `p` by
`PWM_DRIFT_PH·drift` at every `freq`, so after a reset (`ph` = 0) the pulse is 1 while the drift is positive and -1 while it is
negative (one so small that the wrapped phase rounds to 1 counts as 0, log 7). The model follows R335. -/
def PwmOsc.pulse (cfg : Config.Parameters N) (e : PwmOsc N) (draws : Nat → N) (c : Chan) : N :=
  let depth := cfg.mul cfg.pwmDriftPw
    (cfg.add cfg.pwmDepthMin (cfg.mul (cfg.sub cfg.one cfg.pwmDepthMin) e.regs.morph))
  let centre := cfg.add (cfg.ofRat 1 2) (cfg.mul cfg.pwmPwSpan e.regs.timb)
  let pw := cfg.clamp (cfg.add centre (cfg.mul depth (e.driftNext cfg draws c))) cfg.pwmPwLo cfg.pwmPwHi
  let p := cfg.wrap1 (cfg.add (stereoGet e.ch c).ph (cfg.mul cfg.pwmDriftPh (e.driftNext cfg draws c)))
  blpulse cfg p (e.dt cfg c) pw

/-- The output `y` of a channel's DC blocker (R335). -/
def PwmOsc.blocked (cfg : Config.Parameters N) (e : PwmOsc N) (draws : Nat → N) (c : Chan) : N :=
  cfg.add (cfg.sub (e.pulse cfg draws c) (stereoGet e.ch c).dcx) (cfg.mul cfg.pwmDcR (stereoGet e.ch c).dcy)

/-- A channel's state after this sample (R334, R335). -/
def PwmOsc.channelNext (cfg : Config.Parameters N) (e : PwmOsc N) (draws : Nat → N) (c : Chan) : PwmChannel N :=
  { ph := phaseNext cfg (stereoGet e.ch c).ph (e.dt cfg c)
    drift := e.driftNext cfg draws c
    target := e.targetNext cfg draws c
    dcx := cfg.ftz (e.pulse cfg draws c)
    dcy := cfg.ftz (e.blocked cfg draws c) }

/-- The reference body of E11 (R334, R335). -/
def PwmOsc.body (cfg : Config.Parameters N) : EngineBody (PwmOsc N) N := fun e draws =>
  { state := { e with
      ch := ⟨e.channelNext cfg draws .left, e.channelNext cfg draws .right⟩
      dcnt := (e.dcnt + 1) % cfg.pwmDriftPeriod }
    draws := if e.dcnt = 0 then 2 else 0
    xL := e.blocked cfg draws .left
    xR := e.blocked cfg draws .right }

/-- `E11.PRODUCE`: one call of `ENGINE_BODY[11]`, which is `PwmOsc.body` unless the configuration replaces it, then the output
stage (R168, R172). -/
def PwmOsc.produce (cfg : Config.Parameters N) (e : PwmOsc N) : Stereo N × PwmOsc N :=
  let b := (cfg.engineBody.pwm.getD (PwmOsc.body cfg)) e (e.regs.draws cfg)
  let out := finish cfg 11 e.regs b
  (out.1, { b.state with regs := out.2 })

/-! ### The operations of E11 -/

/-- `E11.RESET` (R331). -/
def execE11Reset (s : State.Of N) (cfg : Config.Parameters N := by exact Sys2Proof.Config.reference) :
    ResultOf N := done { s with e11 := s.e11.reset cfg }

/-- `E11.SET_SR v` (R153). -/
def execE11SetSr (v : Data) (s : State.Of N) (cfg : Config.Parameters N := by exact Sys2Proof.Config.reference) :
    ResultOf N :=
  done { s with e11.regs := s.e11.regs.setSr cfg (cfg.num v) }

/-- `E11.SET_FREQ v` (R154). -/
def execE11SetFreq (v : Data) (s : State.Of N) (cfg : Config.Parameters N := by exact Sys2Proof.Config.reference) :
    ResultOf N :=
  done { s with e11.regs := s.e11.regs.setFreq cfg (cfg.num v) }

/-- `E11.SET_HARM v` (R155). -/
def execE11SetHarm (v : Data) (s : State.Of N) (cfg : Config.Parameters N := by exact Sys2Proof.Config.reference) :
    ResultOf N :=
  done { s with e11.regs := s.e11.regs.setHarm cfg (cfg.num v) }

/-- `E11.SET_TIMB v` (R156). -/
def execE11SetTimb (v : Data) (s : State.Of N) (cfg : Config.Parameters N := by exact Sys2Proof.Config.reference) :
    ResultOf N :=
  done { s with e11.regs := s.e11.regs.setTimb cfg (cfg.num v) }

/-- `E11.SET_MORPH v` (R157). -/
def execE11SetMorph (v : Data) (s : State.Of N) (cfg : Config.Parameters N := by exact Sys2Proof.Config.reference) :
    ResultOf N :=
  done { s with e11.regs := s.e11.regs.setMorph cfg (cfg.num v) }

/-- `E11.SET_LEVEL v` (R158). -/
def execE11SetLevel (v : Data) (s : State.Of N) (cfg : Config.Parameters N := by exact Sys2Proof.Config.reference) :
    ResultOf N :=
  done { s with e11.regs := s.e11.regs.setLevel cfg (cfg.num v) }

/-- `E11.PRODUCE` (R335): the pair in `RW` (R116). -/
def execE11Produce (s : State.Of N) (cfg : Config.Parameters N := by exact Sys2Proof.Config.reference) :
    ResultOf N :=
  doneWithPair { s with e11 := (s.e11.produce cfg).2 } (s.e11.produce cfg).1 cfg

end Sys2Proof.Machine
end

