-- ==== Sys2Proof/Machine/Pipeline.lean ====
section
/-! DEFINITION. The voice pipeline and the host operations (49_voice_pipeline.md), and the full reset (R570). -/

namespace Sys2Proof.Machine

variable {N : Type} [DecidableEq N]

/-! ## Engines by index -/

/-- `E[k].RESET` for a computed `k` (R493, R503). -/
def State.Of.resetEngine (cfg : Config.Parameters N) (s : State.Of N) : Engine → State.Of N
  | .sine => { s with e0 := s.e0.reset cfg }
  | .triangle => { s with e1 := s.e1.reset cfg }
  | .square => { s with e2 := s.e2.reset cfg }
  | .saw => { s with e3 := s.e3.reset cfg }
  | .supersaw => { s with e4 := s.e4.reset cfg }
  | .virtualAnalog => { s with e5 := s.e5.reset cfg }
  | .fm => { s with e6 := s.e6.reset cfg }
  | .formant => { s with e7 := s.e7.reset cfg }
  | .additive => { s with e8 := s.e8.reset cfg }
  | .chord => { s with e9 := s.e9.reset cfg }
  | .pluckedString => { s with e10 := s.e10.reset cfg }
  | .pwm => { s with e11 := s.e11.reset cfg }

/-- The four setters of R503 on engine `k` alone. -/
def State.Of.programEngine (cfg : Config.Parameters N) (s : State.Of N) (freq harm timb morph : N) : Engine → State.Of N
  | .sine => { s with e0.regs := s.e0.regs.program cfg freq harm timb morph }
  | .triangle => { s with e1.regs := s.e1.regs.program cfg freq harm timb morph }
  | .square => { s with e2.regs := s.e2.regs.program cfg freq harm timb morph }
  | .saw => { s with e3.regs := s.e3.regs.program cfg freq harm timb morph }
  | .supersaw => { s with e4.regs := s.e4.regs.program cfg freq harm timb morph }
  | .virtualAnalog => { s with e5.regs := s.e5.regs.program cfg freq harm timb morph }
  | .fm => { s with e6.regs := s.e6.regs.program cfg freq harm timb morph }
  | .formant => { s with e7.regs := s.e7.regs.program cfg freq harm timb morph }
  | .additive => { s with e8.regs := s.e8.regs.program cfg freq harm timb morph }
  | .chord => { s with e9.regs := s.e9.regs.program cfg freq harm timb morph }
  | .pluckedString => { s with e10.regs := s.e10.regs.program cfg freq harm timb morph }
  | .pwm => { s with e11.regs := s.e11.regs.program cfg freq harm timb morph }

/-- The pair `E[k].PRODUCE` returns (R503). -/
def State.Of.engineOut (cfg : Config.Parameters N) (s : State.Of N) : Engine → Stereo N
  | .sine => (s.e0.produce cfg).1
  | .triangle => (s.e1.produce cfg).1
  | .square => (s.e2.produce cfg).1
  | .saw => (s.e3.produce cfg).1
  | .supersaw => (s.e4.produce cfg).1
  | .virtualAnalog => (s.e5.produce cfg).1
  | .fm => (s.e6.produce cfg).1
  | .formant => (s.e7.produce cfg).1
  | .additive => (s.e8.produce cfg).1
  | .chord => (s.e9.produce cfg).1
  | .pluckedString => (s.e10.produce cfg).1
  | .pwm => (s.e11.produce cfg).1

/-- The state after `E[k].PRODUCE`: engine `k` alone advances (R503, R60). -/
def State.Of.engineAdvance (cfg : Config.Parameters N) (s : State.Of N) : Engine → State.Of N
  | .sine => { s with e0 := (s.e0.produce cfg).2 }
  | .triangle => { s with e1 := (s.e1.produce cfg).2 }
  | .square => { s with e2 := (s.e2.produce cfg).2 }
  | .saw => { s with e3 := (s.e3.produce cfg).2 }
  | .supersaw => { s with e4 := (s.e4.produce cfg).2 }
  | .virtualAnalog => { s with e5 := (s.e5.produce cfg).2 }
  | .fm => { s with e6 := (s.e6.produce cfg).2 }
  | .formant => { s with e7 := (s.e7.produce cfg).2 }
  | .additive => { s with e8 := (s.e8.produce cfg).2 }
  | .chord => { s with e9 := (s.e9.produce cfg).2 }
  | .pluckedString => { s with e10 := (s.e10.produce cfg).2 }
  | .pwm => { s with e11 := (s.e11.produce cfg).2 }

/-! ## Notes (R484, R493, R494) -/

/-- `notefreq(n) = A4_HZ·POW(2, (n - A4_NOTE)/12)` (R484). -/
def notefreq (cfg : Config.Parameters N) (n : BitVec 7) : N :=
  let steps := cfg.ofInt ((n.toNat : Int) - (Config.a4Note : Int))
  cfg.mul cfg.a4Hz (cfg.pow cfg.two (cfg.div steps (cfg.ofNat 12)))

/-- The note-on event for note `n` (R493). -/
def State.Of.noteOn (cfg : Config.Parameters N) (s : State.Of N) (n : BitVec 7) : State.Of N :=
  let t := { s with
    pipe := { s.pipe with heldNote := n, noteFreq := cfg.ftz (notefreq cfg n), gate := true, hasNote := true }
    adsr := s.adsr.gateOn
    ad := s.ad.gateOn }
  if cfg.resetOnNoteOn then t.resetEngine cfg (sel cfg (bankGet t.pipe.p 0 cfg)) else t

/-- The note-off event for note `n` (R494). -/
def State.Of.noteOff (cfg : Config.Parameters N) (s : State.Of N) (n : BitVec 7) : State.Of N :=
  if noteOffMatches s.pipe n then
    { s with pipe := { s.pipe with gate := false }, adsr := s.adsr.gateOff, ad := s.ad.gateOff cfg }
  else s

/-! ## The block: latching and programming (R490, R491) -/

/-- `PL` computed from `P`, each word with its "sanitised as" function (R31, R490), stored flushed (log 11). -/
def latchOf (cfg : Config.Parameters N) (p : Bank 19 N) : Latch N :=
  { sel := sel cfg (bankGet p 0 cfg)
    harm := cfg.ftz (cfg.sanUnit (bankGet p 1 cfg))
    timb := cfg.ftz (cfg.sanUnit (bankGet p 2 cfg))
    morph := cfg.ftz (cfg.sanUnit (bankGet p 3 cfg))
    freq := cfg.ftz (cfg.san (bankGet p 4 cfg) cfg.zero (cfg.div cfg.sr cfg.two))
    level := cfg.ftz (cfg.sanUnit (bankGet p 5 cfg))
    attack := cfg.ftz (cfg.san (bankGet p 6 cfg) cfg.zero cfg.envTMax)
    decay := cfg.ftz (cfg.san (bankGet p 7 cfg) cfg.zero cfg.envTMax)
    sustain := cfg.ftz (cfg.sanUnit (bankGet p 8 cfg))
    release := cfg.ftz (cfg.san (bankGet p 9 cfg) cfg.zero cfg.envTMax)
    lfoFreq := cfg.ftz (cfg.san (bankGet p 10 cfg) cfg.zero (cfg.div cfg.sr cfg.two))
    lfoWave := waveOf cfg (bankGet p 11 cfg)
    lfoVar := cfg.ftz (cfg.sanUnit (bankGet p 12 cfg))
    reverb := cfg.ftz (cfg.sanUnit (bankGet p 13 cfg))
    delay := cfg.ftz (cfg.sanUnit (bankGet p 14 cfg))
    chorus := cfg.ftz (cfg.sanUnit (bankGet p 15 cfg))
    cutoff := cfg.ftz (cfg.san (bankGet p 16 cfg) cfg.fcMin (cfg.mul cfg.fcMaxRatio cfg.sr))
    resonance := cfg.ftz (cfg.sanUnit (bankGet p 17 cfg))
    wet := (cfg.ftz (cfg.sanUnit (bankGet p 18 cfg))) }

/-- Latch `PL` (R490). -/
def State.Of.latchParams (cfg : Config.Parameters N) (s : State.Of N) : State.Of N :=
  { s with pipe := { s.pipe with pl := latchOf cfg s.pipe.p } }

/-- The unit operations the pipeline issues once per block, from `PL` (R491). -/
def State.Of.programUnits (cfg : Config.Parameters N) (s : State.Of N) : State.Of N :=
  let pl := s.pipe.pl
  { s with
    adsr := (((s.adsr.setAttack cfg pl.attack).setDecay cfg pl.decay).setSustain cfg pl.sustain).setRelease cfg pl.release
    ad := (s.ad.setAttack cfg pl.attack).setDecay cfg pl.decay
    lfo := ((s.lfo.setFreq cfg pl.lfoFreq).setWave cfg (cfg.ofNat pl.lfoWave.code)).setVar cfg pl.lfoVar
    flt := ((s.flt.setCutoff cfg pl.cutoff).setRes cfg pl.resonance).setWet cfg pl.wet
    rev := s.rev.setAmount cfg pl.reverb
    dly := s.dly.setAmount cfg pl.delay
    cho := s.cho.setAmount cfg pl.chorus }

/-- What a block does before its first frame (R496). -/
def State.Of.startBlock (cfg : Config.Parameters N) (s : State.Of N) : State.Of N :=
  (s.latchParams cfg).programUnits cfg

/-! ## One sample tick (R500) -/

/-- Step 1: advance the envelopes and the LFO (R501). -/
def State.Of.tickModulators (cfg : Config.Parameters N) (s : State.Of N) : State.Of N :=
  { s with
    adsr := s.adsr.process cfg
    ad := s.ad.process cfg
    lfo := s.lfo.process cfg
    pipe := { s.pipe with adLevel := cfg.ftz (s.ad.process cfg).level } }

/-- Step 2: the note frequency `f` (R502).
DESIGN CHOICE (log 49): R502 adds that before the first note `env = 0`, so the parameter is not heard; a direct `ADSR.GATE_ON`
(R546) starts the envelope without a note, and then it is. The model follows R500's pseudocode. -/
def Pipe.frequency (p : Pipe N) : N := if p.hasNote then p.noteFreq else p.pl.freq

/-- Step 3 up to the call: the engine change check, `sel_prev`, and the selected engine's controls (R503). -/
def State.Of.tickSelect (cfg : Config.Parameters N) (s : State.Of N) : State.Of N :=
  let k := s.pipe.pl.sel
  let t := if engineChanged s.pipe k && cfg.resetOnSelect then s.resetEngine cfg k else s
  let u := { t with pipe := { t.pipe with selPrev := BitVec.ofNat 4 k.index } }
  u.programEngine cfg u.pipe.frequency u.pipe.pl.harm u.pipe.pl.timb u.pipe.pl.morph k

/-- Step 4: the gain `gsc` (R504).
DESIGN CHOICE (log 40): every operation is rounded (R8): `1 + 0.2·1` is 1.20000005, above the 1.2 of R504, and `TANH` is 1 from
about 9.011 on, which E10 passes at 24 Hz with `harm = 1` and `morph = 1`, so a frame can be 1.20000005 in magnitude, where
R498 says that it is below 1.2. -/
def tickGain (cfg : Config.Parameters N) (env level lfo : N) : N :=
  cfg.mul (cfg.mul env level) (cfg.add cfg.one (cfg.mul cfg.lfoAmDepth lfo))

/-- Step 4: the silence detector, before the filter (R507). -/
def State.Of.tickSilence (cfg : Config.Parameters N) (s : State.Of N) (env : N) : State.Of N :=
  let t := if silenceEdge cfg s.pipe.wasSilent env then { s with dly := s.dly.reset cfg, cho := s.cho.reset cfg } else s
  { t with pipe := { t.pipe with wasSilent := isSilent cfg env } }

/-- One unit applied to both channels, the left one first: the outputs (R505, R506, R508). -/
def bothOut {U : Type} (output : U → Chan → N → N) (process : U → Chan → N → U) (u : U) (x : Stereo N) :
    Stereo N :=
  ⟨output u .left x.l, output (process u .left x.l) .right x.r⟩

/-- One unit applied to both channels, the left one first: the unit afterwards. -/
def bothNext {U : Type} (process : U → Chan → N → U) (u : U) (x : Stereo N) : U :=
  process (process u .left x.l) .right x.r

/-- The signal after step 5, the filter (R505). -/
def State.Of.afterFilter (cfg : Config.Parameters N) (s : State.Of N) (x : Stereo N) : Stereo N :=
  bothOut (Ladder.output cfg) (Ladder.process cfg) s.flt x

/-- The signal after the delay of step 6 (R506). -/
def State.Of.afterDelay (cfg : Config.Parameters N) (s : State.Of N) (x : Stereo N) : Stereo N :=
  bothOut (Delay.output cfg) (Delay.process cfg) s.dly (s.afterFilter cfg x)

/-- The signal after the chorus of step 6 (R506). -/
def State.Of.afterChorus (cfg : Config.Parameters N) (s : State.Of N) (x : Stereo N) : Stereo N :=
  bothOut (Chorus.output cfg) (Chorus.process cfg) s.cho (s.afterDelay cfg x)

/-- The frame, after the reverb of step 7 (R508). -/
def State.Of.afterReverb (cfg : Config.Parameters N) (s : State.Of N) (x : Stereo N) : Stereo N :=
  bothOut (Reverb.output cfg) (Reverb.process cfg) s.rev (s.afterChorus cfg x)

/-- The filter and the effects after steps 5 to 7. -/
def State.Of.tickEffects (cfg : Config.Parameters N) (s : State.Of N) (x : Stereo N) : State.Of N :=
  { s with
    flt := bothNext (Ladder.process cfg) s.flt x
    dly := bothNext (Delay.process cfg) s.dly (s.afterFilter cfg x)
    cho := bothNext (Chorus.process cfg) s.cho (s.afterDelay cfg x)
    rev := bothNext (Reverb.process cfg) s.rev (s.afterChorus cfg x) }

/-- The state of a sample tick when step 4 begins: modulators advanced, engine called. -/
def State.Of.tickSource (cfg : Config.Parameters N) (s : State.Of N) : State.Of N :=
  let t := (s.tickModulators cfg).tickSelect cfg
  t.engineAdvance cfg t.pipe.pl.sel

/-- The scaled pair of step 4 (R504). The LFO value is the one before its advance (R501). -/
def State.Of.tickScaled (cfg : Config.Parameters N) (s : State.Of N) : Stereo N :=
  let t := (s.tickModulators cfg).tickSelect cfg
  let y := t.engineOut cfg t.pipe.pl.sel
  let gsc := tickGain cfg (s.adsr.process cfg).level s.pipe.pl.level (s.lfo.value cfg)
  ⟨cfg.mul gsc y.l, cfg.mul gsc y.r⟩

/-- One sample tick, its frame emitted (R496, R500). -/
def State.Of.tick (cfg : Config.Parameters N) (s : State.Of N) : State.Of N :=
  let t := (s.tickSource cfg).tickSilence cfg (s.adsr.process cfg).level
  (t.tickEffects cfg (s.tickScaled cfg)).emit (t.afterReverb cfg (s.tickScaled cfg)) cfg

/-- `n` sample ticks (R496). The number of ticks made so far is `PIPE.frame` (log 15). -/
def State.Of.runFrames (cfg : Config.Parameters N) : Nat → State.Of N → State.Of N
  | 0, s => s
  | n + 1, s => State.Of.runFrames cfg n (s.tick cfg)

/-! ## Full reset (R570) -/

/-- `PIPE.FULL_RESET` on the state: everything but `P`, `PL` and the ports (R570, logs 11, 14).
DESIGN CHOICE (log 32): `SR`, 1.0 and `FC_MIN` are written as R571 gives them, unflushed, where R12 applies `ftz` to every
write. -/
def State.Of.fullReset (cfg : Config.Parameters N) (s : State.Of N) : State.Of N :=
  { s with
    e0 := SineOsc.reset cfg { s.e0 with regs := EngineRegs.powerOn cfg 0 }
    e1 := TriangleOsc.reset cfg { s.e1 with regs := EngineRegs.powerOn cfg 1 }
    e2 := SquareOsc.reset cfg { s.e2 with regs := EngineRegs.powerOn cfg 2 }
    e3 := SawOsc.reset cfg { s.e3 with regs := EngineRegs.powerOn cfg 3 }
    e4 := SupersawBank.reset cfg { s.e4 with regs := EngineRegs.powerOn cfg 4 }
    e5 := VirtualAnalog.reset cfg { s.e5 with regs := EngineRegs.powerOn cfg 5 }
    e6 := FmPair.reset cfg { s.e6 with regs := EngineRegs.powerOn cfg 6 }
    e7 := FormantFilter.reset cfg { s.e7 with regs := EngineRegs.powerOn cfg 7 }
    e8 := AdditiveBank.reset cfg { s.e8 with regs := EngineRegs.powerOn cfg 8 }
    e9 := ChordStack.reset cfg { s.e9 with regs := EngineRegs.powerOn cfg 9 }
    e10 := PluckedString.reset cfg { s.e10 with regs := EngineRegs.powerOn cfg 10 }
    e11 := PwmOsc.reset cfg { s.e11 with regs := EngineRegs.powerOn cfg 11 }
    adsr := Adsr.reset cfg { s.adsr with sr := cfg.sr, a := cfg.zero, d := cfg.zero, s := cfg.zero, r := cfg.zero }
    ad := Ad.reset cfg { s.ad with sr := cfg.sr, a := cfg.zero, d := cfg.zero }
    lfo := Lfo.reset cfg { s.lfo with
      sr := cfg.sr, freq := cfg.zero, wave := .sine, variation := cfg.zero, seed := cfg.lfoSeed }
    flt := Ladder.reset cfg { s.flt with sr := cfg.sr, fc := cfg.fcMin, res := cfg.zero, wet := cfg.zero }
    dly := Delay.reset cfg { s.dly with amount := cfg.zero }
    cho := Chorus.reset cfg { s.cho with amount := cfg.zero }
    rev := Reverb.reset { s.rev with amount := cfg.zero }
    pipe := { s.pipe with
      heldNote := 0#7, noteFreq := cfg.zero, gate := false, hasNote := false, wasSilent := true, selPrev := 15#4
      adLevel := cfg.zero } }

/-! ## The host operations (R485 to R489, R496) -/

/-- `PIPE.FULL_RESET` (R489, R570). -/
def execPipeFullReset (s : State.Of N) (cfg : Config.Parameters N := by exact Sys2Proof.Config.reference) :
    ResultOf N := done (s.fullReset cfg)

/-- `PIPE.PARAM_SET i, v` (R485): stored as given, unflushed (log 9); an index above 18 is a no-operation. -/
def execPipeParamSet (i : Idx) (v : Data) (s : State.Of N) (cfg : Config.Parameters N := by exact Sys2Proof.Config.reference) :
    ResultOf N :=
  done (if paramIndexOf i < cfg.nParams
    then { s with pipe := { s.pipe with p := bankSet s.pipe.p (paramIndexOf i) (cfg.num v) } } else s)

/-- `PIPE.PARAM_GET i` (R486): the register, or +0.0 for an index above 18. -/
def execPipeParamGet (i : Idx) (s : State.Of N) (cfg : Config.Parameters N := by exact Sys2Proof.Config.reference) :
    ResultOf N :=
  doneWith s (if paramIndexOf i < cfg.nParams then bankGet s.pipe.p (paramIndexOf i) cfg else cfg.zero) cfg

/-- `PIPE.NOTE_ON note, vel` (R487): velocity 0 is a note-off (R133). -/
def execPipeNoteOn (note : Idx) (vel : Data) (s : State.Of N) (cfg : Config.Parameters N := by exact Sys2Proof.Config.reference) :
    ResultOf N :=
  done (if velocityOf vel = 0#7 then s.noteOff cfg (noteOf note) else s.noteOn cfg (noteOf note))

/-- `PIPE.NOTE_OFF note` (R488). -/
def execPipeNoteOff (note : Idx) (s : State.Of N) (cfg : Config.Parameters N := by exact Sys2Proof.Config.reference) :
    ResultOf N := done (s.noteOff cfg (noteOf note))

/-- `PIPE.PROCESS_BLOCK n` (R496). The hardware does not check `n` against `MAX_FRAMES`, which is the premise of the
statements (R553 (a), log 12). -/
def execPipeProcessBlock (n : Data) (s : State.Of N) (cfg : Config.Parameters N := by exact Sys2Proof.Config.reference) :
    ResultOf N :=
  done (State.Of.runFrames cfg (countOf n) (s.startBlock cfg))

end Sys2Proof.Machine
end

