-- ==== Sys2Proof/Machine/Dispatch.lean ====
section
/-! DEFINITION. The dispatch of an operation to its meaning: one arm per constructor of Instr (R113). -/

namespace Sys2Proof.Machine

def exec (i : Instr) (s : State) : Host.Outcome State Fault Refusal :=
  match i with
  | .e0Reset => Sys2Proof.Machine.execE0Reset s
  | .e0SetSr v => Sys2Proof.Machine.execE0SetSr v s
  | .e0SetFreq v => Sys2Proof.Machine.execE0SetFreq v s
  | .e0SetHarm v => Sys2Proof.Machine.execE0SetHarm v s
  | .e0SetTimb v => Sys2Proof.Machine.execE0SetTimb v s
  | .e0SetMorph v => Sys2Proof.Machine.execE0SetMorph v s
  | .e0SetLevel v => Sys2Proof.Machine.execE0SetLevel v s
  | .e0Produce => Sys2Proof.Machine.execE0Produce s
  | .e1Reset => Sys2Proof.Machine.execE1Reset s
  | .e1SetSr v => Sys2Proof.Machine.execE1SetSr v s
  | .e1SetFreq v => Sys2Proof.Machine.execE1SetFreq v s
  | .e1SetHarm v => Sys2Proof.Machine.execE1SetHarm v s
  | .e1SetTimb v => Sys2Proof.Machine.execE1SetTimb v s
  | .e1SetMorph v => Sys2Proof.Machine.execE1SetMorph v s
  | .e1SetLevel v => Sys2Proof.Machine.execE1SetLevel v s
  | .e1Produce => Sys2Proof.Machine.execE1Produce s
  | .e2Reset => Sys2Proof.Machine.execE2Reset s
  | .e2SetSr v => Sys2Proof.Machine.execE2SetSr v s
  | .e2SetFreq v => Sys2Proof.Machine.execE2SetFreq v s
  | .e2SetHarm v => Sys2Proof.Machine.execE2SetHarm v s
  | .e2SetTimb v => Sys2Proof.Machine.execE2SetTimb v s
  | .e2SetMorph v => Sys2Proof.Machine.execE2SetMorph v s
  | .e2SetLevel v => Sys2Proof.Machine.execE2SetLevel v s
  | .e2Produce => Sys2Proof.Machine.execE2Produce s
  | .e3Reset => Sys2Proof.Machine.execE3Reset s
  | .e3SetSr v => Sys2Proof.Machine.execE3SetSr v s
  | .e3SetFreq v => Sys2Proof.Machine.execE3SetFreq v s
  | .e3SetHarm v => Sys2Proof.Machine.execE3SetHarm v s
  | .e3SetTimb v => Sys2Proof.Machine.execE3SetTimb v s
  | .e3SetMorph v => Sys2Proof.Machine.execE3SetMorph v s
  | .e3SetLevel v => Sys2Proof.Machine.execE3SetLevel v s
  | .e3Produce => Sys2Proof.Machine.execE3Produce s
  | .e4Reset => Sys2Proof.Machine.execE4Reset s
  | .e4SetSr v => Sys2Proof.Machine.execE4SetSr v s
  | .e4SetFreq v => Sys2Proof.Machine.execE4SetFreq v s
  | .e4SetHarm v => Sys2Proof.Machine.execE4SetHarm v s
  | .e4SetTimb v => Sys2Proof.Machine.execE4SetTimb v s
  | .e4SetMorph v => Sys2Proof.Machine.execE4SetMorph v s
  | .e4SetLevel v => Sys2Proof.Machine.execE4SetLevel v s
  | .e4Produce => Sys2Proof.Machine.execE4Produce s
  | .e5Reset => Sys2Proof.Machine.execE5Reset s
  | .e5SetSr v => Sys2Proof.Machine.execE5SetSr v s
  | .e5SetFreq v => Sys2Proof.Machine.execE5SetFreq v s
  | .e5SetHarm v => Sys2Proof.Machine.execE5SetHarm v s
  | .e5SetTimb v => Sys2Proof.Machine.execE5SetTimb v s
  | .e5SetMorph v => Sys2Proof.Machine.execE5SetMorph v s
  | .e5SetLevel v => Sys2Proof.Machine.execE5SetLevel v s
  | .e5Produce => Sys2Proof.Machine.execE5Produce s
  | .e6Reset => Sys2Proof.Machine.execE6Reset s
  | .e6SetSr v => Sys2Proof.Machine.execE6SetSr v s
  | .e6SetFreq v => Sys2Proof.Machine.execE6SetFreq v s
  | .e6SetHarm v => Sys2Proof.Machine.execE6SetHarm v s
  | .e6SetTimb v => Sys2Proof.Machine.execE6SetTimb v s
  | .e6SetMorph v => Sys2Proof.Machine.execE6SetMorph v s
  | .e6SetLevel v => Sys2Proof.Machine.execE6SetLevel v s
  | .e6Produce => Sys2Proof.Machine.execE6Produce s
  | .e7Reset => Sys2Proof.Machine.execE7Reset s
  | .e7SetSr v => Sys2Proof.Machine.execE7SetSr v s
  | .e7SetFreq v => Sys2Proof.Machine.execE7SetFreq v s
  | .e7SetHarm v => Sys2Proof.Machine.execE7SetHarm v s
  | .e7SetTimb v => Sys2Proof.Machine.execE7SetTimb v s
  | .e7SetMorph v => Sys2Proof.Machine.execE7SetMorph v s
  | .e7SetLevel v => Sys2Proof.Machine.execE7SetLevel v s
  | .e7Produce => Sys2Proof.Machine.execE7Produce s
  | .e8Reset => Sys2Proof.Machine.execE8Reset s
  | .e8SetSr v => Sys2Proof.Machine.execE8SetSr v s
  | .e8SetFreq v => Sys2Proof.Machine.execE8SetFreq v s
  | .e8SetHarm v => Sys2Proof.Machine.execE8SetHarm v s
  | .e8SetTimb v => Sys2Proof.Machine.execE8SetTimb v s
  | .e8SetMorph v => Sys2Proof.Machine.execE8SetMorph v s
  | .e8SetLevel v => Sys2Proof.Machine.execE8SetLevel v s
  | .e8Produce => Sys2Proof.Machine.execE8Produce s
  | .e9Reset => Sys2Proof.Machine.execE9Reset s
  | .e9SetSr v => Sys2Proof.Machine.execE9SetSr v s
  | .e9SetFreq v => Sys2Proof.Machine.execE9SetFreq v s
  | .e9SetHarm v => Sys2Proof.Machine.execE9SetHarm v s
  | .e9SetTimb v => Sys2Proof.Machine.execE9SetTimb v s
  | .e9SetMorph v => Sys2Proof.Machine.execE9SetMorph v s
  | .e9SetLevel v => Sys2Proof.Machine.execE9SetLevel v s
  | .e9Produce => Sys2Proof.Machine.execE9Produce s
  | .e10Reset => Sys2Proof.Machine.execE10Reset s
  | .e10SetSr v => Sys2Proof.Machine.execE10SetSr v s
  | .e10SetFreq v => Sys2Proof.Machine.execE10SetFreq v s
  | .e10SetHarm v => Sys2Proof.Machine.execE10SetHarm v s
  | .e10SetTimb v => Sys2Proof.Machine.execE10SetTimb v s
  | .e10SetMorph v => Sys2Proof.Machine.execE10SetMorph v s
  | .e10SetLevel v => Sys2Proof.Machine.execE10SetLevel v s
  | .e10Produce => Sys2Proof.Machine.execE10Produce s
  | .e11Reset => Sys2Proof.Machine.execE11Reset s
  | .e11SetSr v => Sys2Proof.Machine.execE11SetSr v s
  | .e11SetFreq v => Sys2Proof.Machine.execE11SetFreq v s
  | .e11SetHarm v => Sys2Proof.Machine.execE11SetHarm v s
  | .e11SetTimb v => Sys2Proof.Machine.execE11SetTimb v s
  | .e11SetMorph v => Sys2Proof.Machine.execE11SetMorph v s
  | .e11SetLevel v => Sys2Proof.Machine.execE11SetLevel v s
  | .e11Produce => Sys2Proof.Machine.execE11Produce s
  | .adsrReset => Sys2Proof.Machine.execAdsrReset s
  | .adsrSetSr v => Sys2Proof.Machine.execAdsrSetSr v s
  | .adsrSetAttack v => Sys2Proof.Machine.execAdsrSetAttack v s
  | .adsrSetDecay v => Sys2Proof.Machine.execAdsrSetDecay v s
  | .adsrSetSustain v => Sys2Proof.Machine.execAdsrSetSustain v s
  | .adsrSetRelease v => Sys2Proof.Machine.execAdsrSetRelease v s
  | .adsrGateOn => Sys2Proof.Machine.execAdsrGateOn s
  | .adsrGateOff => Sys2Proof.Machine.execAdsrGateOff s
  | .adsrProcess => Sys2Proof.Machine.execAdsrProcess s
  | .adReset => Sys2Proof.Machine.execAdReset s
  | .adSetSr v => Sys2Proof.Machine.execAdSetSr v s
  | .adSetAttack v => Sys2Proof.Machine.execAdSetAttack v s
  | .adSetDecay v => Sys2Proof.Machine.execAdSetDecay v s
  | .adGateOn => Sys2Proof.Machine.execAdGateOn s
  | .adGateOff => Sys2Proof.Machine.execAdGateOff s
  | .adProcess => Sys2Proof.Machine.execAdProcess s
  | .lfoReset => Sys2Proof.Machine.execLfoReset s
  | .lfoSetSr v => Sys2Proof.Machine.execLfoSetSr v s
  | .lfoSetFreq v => Sys2Proof.Machine.execLfoSetFreq v s
  | .lfoProcess => Sys2Proof.Machine.execLfoProcess s
  | .lfoSetWave v => Sys2Proof.Machine.execLfoSetWave v s
  | .lfoSetVar v => Sys2Proof.Machine.execLfoSetVar v s
  | .fltReset => Sys2Proof.Machine.execFltReset s
  | .fltSetSr v => Sys2Proof.Machine.execFltSetSr v s
  | .fltProcess c v => Sys2Proof.Machine.execFltProcess c v s
  | .fltSetCutoff v => Sys2Proof.Machine.execFltSetCutoff v s
  | .fltSetRes v => Sys2Proof.Machine.execFltSetRes v s
  | .fltSetWet v => Sys2Proof.Machine.execFltSetWet v s
  | .dlyReset => Sys2Proof.Machine.execDlyReset s
  | .dlyProcess c v => Sys2Proof.Machine.execDlyProcess c v s
  | .dlySetAmount v => Sys2Proof.Machine.execDlySetAmount v s
  | .choReset => Sys2Proof.Machine.execChoReset s
  | .choProcess c v => Sys2Proof.Machine.execChoProcess c v s
  | .choSetAmount v => Sys2Proof.Machine.execChoSetAmount v s
  | .revReset => Sys2Proof.Machine.execRevReset s
  | .revProcess c v => Sys2Proof.Machine.execRevProcess c v s
  | .revSetAmount v => Sys2Proof.Machine.execRevSetAmount v s
  | .pipeFullReset => Sys2Proof.Machine.execPipeFullReset s
  | .pipeParamSet n v => Sys2Proof.Machine.execPipeParamSet n v s
  | .pipeParamGet n => Sys2Proof.Machine.execPipeParamGet n s
  | .pipeNoteOn note vel => Sys2Proof.Machine.execPipeNoteOn note vel s
  | .pipeNoteOff note => Sys2Proof.Machine.execPipeNoteOff note s
  | .pipeProcessBlock n => Sys2Proof.Machine.execPipeProcessBlock n s

end Sys2Proof.Machine
end

