-- ==== Sys2Proof/Machine/Step.lean ====
section
/-! DEFINITION. One step of the block: one command taken from the port and run to completion (R14, R110). -/

namespace Sys2Proof.Machine

variable {N : Type} [DecidableEq N]

/-- One step, with `run` as the meaning of an operation. With no command pending nothing changes (R483, R552). A reserved
command word changes no state and returns `RW = 0` (R118, R542). Any other word is run as the operation it stands for. -/
def stepWith (run : Instr → State.Of N → ResultOf N) (s : State.Of N) : ResultOf N :=
  match s.takeCommand with
  | none => .next s
  | some (cw, t) =>
    match decode cw with
    | .ok i => run i t
    | .error _ => done t

/-- One step of the block. -/
def step (s : State) : Host.Outcome State Fault Refusal := stepWith exec s

/-- The state with the command word of the bits `w` (bits at and above `nbits` zero) issued by the host as the next
command (log 13). -/
def State.withFetchWord (s : State) (nbits w : Nat) : State :=
  { s with cmds := BitVec.ofNat 64 (w % 2 ^ nbits) :: s.cmds }

end Sys2Proof.Machine
end

