-- ==== Sys2Proof/Machine/AnyConfig.lean ====
section
/-! DEFINITION. The block in any configuration (R7): the operation map and the step with the configuration as an argument.
`exec` and `step`, whose types the host fixes, are these in the reference configuration (log 1). -/

namespace Sys2Proof.Machine

variable {N : Type} [DecidableEq N]

/-- `exec` in the configuration `cfg`. -/
def execIn (cfg : Config.Parameters N) (i : Instr) (s : State.Of N) : ResultOf N :=
  match i with
  | .e0Reset => execE0Reset s cfg
  | .e0SetSr v => execE0SetSr v s cfg
  | .e0SetFreq v => execE0SetFreq v s cfg
  | .e0SetHarm v => execE0SetHarm v s cfg
  | .e0SetTimb v => execE0SetTimb v s cfg
  | .e0SetMorph v => execE0SetMorph v s cfg
  | .e0SetLevel v => execE0SetLevel v s cfg
  | .e0Produce => execE0Produce s cfg
  | .e1Reset => execE1Reset s cfg
  | .e1SetSr v => execE1SetSr v s cfg
  | .e1SetFreq v => execE1SetFreq v s cfg
  | .e1SetHarm v => execE1SetHarm v s cfg
  | .e1SetTimb v => execE1SetTimb v s cfg
  | .e1SetMorph v => execE1SetMorph v s cfg
  | .e1SetLevel v => execE1SetLevel v s cfg
  | .e1Produce => execE1Produce s cfg
  | .e2Reset => execE2Reset s cfg
  | .e2SetSr v => execE2SetSr v s cfg
  | .e2SetFreq v => execE2SetFreq v s cfg
  | .e2SetHarm v => execE2SetHarm v s cfg
  | .e2SetTimb v => execE2SetTimb v s cfg
  | .e2SetMorph v => execE2SetMorph v s cfg
  | .e2SetLevel v => execE2SetLevel v s cfg
  | .e2Produce => execE2Produce s cfg
  | .e3Reset => execE3Reset s cfg
  | .e3SetSr v => execE3SetSr v s cfg
  | .e3SetFreq v => execE3SetFreq v s cfg
  | .e3SetHarm v => execE3SetHarm v s cfg
  | .e3SetTimb v => execE3SetTimb v s cfg
  | .e3SetMorph v => execE3SetMorph v s cfg
  | .e3SetLevel v => execE3SetLevel v s cfg
  | .e3Produce => execE3Produce s cfg
  | .e4Reset => execE4Reset s cfg
  | .e4SetSr v => execE4SetSr v s cfg
  | .e4SetFreq v => execE4SetFreq v s cfg
  | .e4SetHarm v => execE4SetHarm v s cfg
  | .e4SetTimb v => execE4SetTimb v s cfg
  | .e4SetMorph v => execE4SetMorph v s cfg
  | .e4SetLevel v => execE4SetLevel v s cfg
  | .e4Produce => execE4Produce s cfg
  | .e5Reset => execE5Reset s cfg
  | .e5SetSr v => execE5SetSr v s cfg
  | .e5SetFreq v => execE5SetFreq v s cfg
  | .e5SetHarm v => execE5SetHarm v s cfg
  | .e5SetTimb v => execE5SetTimb v s cfg
  | .e5SetMorph v => execE5SetMorph v s cfg
  | .e5SetLevel v => execE5SetLevel v s cfg
  | .e5Produce => execE5Produce s cfg
  | .e6Reset => execE6Reset s cfg
  | .e6SetSr v => execE6SetSr v s cfg
  | .e6SetFreq v => execE6SetFreq v s cfg
  | .e6SetHarm v => execE6SetHarm v s cfg
  | .e6SetTimb v => execE6SetTimb v s cfg
  | .e6SetMorph v => execE6SetMorph v s cfg
  | .e6SetLevel v => execE6SetLevel v s cfg
  | .e6Produce => execE6Produce s cfg
  | .e7Reset => execE7Reset s cfg
  | .e7SetSr v => execE7SetSr v s cfg
  | .e7SetFreq v => execE7SetFreq v s cfg
  | .e7SetHarm v => execE7SetHarm v s cfg
  | .e7SetTimb v => execE7SetTimb v s cfg
  | .e7SetMorph v => execE7SetMorph v s cfg
  | .e7SetLevel v => execE7SetLevel v s cfg
  | .e7Produce => execE7Produce s cfg
  | .e8Reset => execE8Reset s cfg
  | .e8SetSr v => execE8SetSr v s cfg
  | .e8SetFreq v => execE8SetFreq v s cfg
  | .e8SetHarm v => execE8SetHarm v s cfg
  | .e8SetTimb v => execE8SetTimb v s cfg
  | .e8SetMorph v => execE8SetMorph v s cfg
  | .e8SetLevel v => execE8SetLevel v s cfg
  | .e8Produce => execE8Produce s cfg
  | .e9Reset => execE9Reset s cfg
  | .e9SetSr v => execE9SetSr v s cfg
  | .e9SetFreq v => execE9SetFreq v s cfg
  | .e9SetHarm v => execE9SetHarm v s cfg
  | .e9SetTimb v => execE9SetTimb v s cfg
  | .e9SetMorph v => execE9SetMorph v s cfg
  | .e9SetLevel v => execE9SetLevel v s cfg
  | .e9Produce => execE9Produce s cfg
  | .e10Reset => execE10Reset s cfg
  | .e10SetSr v => execE10SetSr v s cfg
  | .e10SetFreq v => execE10SetFreq v s cfg
  | .e10SetHarm v => execE10SetHarm v s cfg
  | .e10SetTimb v => execE10SetTimb v s cfg
  | .e10SetMorph v => execE10SetMorph v s cfg
  | .e10SetLevel v => execE10SetLevel v s cfg
  | .e10Produce => execE10Produce s cfg
  | .e11Reset => execE11Reset s cfg
  | .e11SetSr v => execE11SetSr v s cfg
  | .e11SetFreq v => execE11SetFreq v s cfg
  | .e11SetHarm v => execE11SetHarm v s cfg
  | .e11SetTimb v => execE11SetTimb v s cfg
  | .e11SetMorph v => execE11SetMorph v s cfg
  | .e11SetLevel v => execE11SetLevel v s cfg
  | .e11Produce => execE11Produce s cfg
  | .adsrReset => execAdsrReset s cfg
  | .adsrSetSr v => execAdsrSetSr v s cfg
  | .adsrSetAttack v => execAdsrSetAttack v s cfg
  | .adsrSetDecay v => execAdsrSetDecay v s cfg
  | .adsrSetSustain v => execAdsrSetSustain v s cfg
  | .adsrSetRelease v => execAdsrSetRelease v s cfg
  | .adsrGateOn => execAdsrGateOn s
  | .adsrGateOff => execAdsrGateOff s
  | .adsrProcess => execAdsrProcess s cfg
  | .adReset => execAdReset s cfg
  | .adSetSr v => execAdSetSr v s cfg
  | .adSetAttack v => execAdSetAttack v s cfg
  | .adSetDecay v => execAdSetDecay v s cfg
  | .adGateOn => execAdGateOn s
  | .adGateOff => execAdGateOff s cfg
  | .adProcess => execAdProcess s cfg
  | .lfoReset => execLfoReset s cfg
  | .lfoSetSr v => execLfoSetSr v s cfg
  | .lfoSetFreq v => execLfoSetFreq v s cfg
  | .lfoProcess => execLfoProcess s cfg
  | .lfoSetWave v => execLfoSetWave v s cfg
  | .lfoSetVar v => execLfoSetVar v s cfg
  | .fltReset => execFltReset s cfg
  | .fltSetSr v => execFltSetSr v s cfg
  | .fltProcess c v => execFltProcess c v s cfg
  | .fltSetCutoff v => execFltSetCutoff v s cfg
  | .fltSetRes v => execFltSetRes v s cfg
  | .fltSetWet v => execFltSetWet v s cfg
  | .dlyReset => execDlyReset s cfg
  | .dlyProcess c v => execDlyProcess c v s cfg
  | .dlySetAmount v => execDlySetAmount v s cfg
  | .choReset => execChoReset s cfg
  | .choProcess c v => execChoProcess c v s cfg
  | .choSetAmount v => execChoSetAmount v s cfg
  | .revReset => execRevReset s
  | .revProcess c v => execRevProcess c v s cfg
  | .revSetAmount v => execRevSetAmount v s cfg
  | .pipeFullReset => execPipeFullReset s cfg
  | .pipeParamSet n v => execPipeParamSet n v s cfg
  | .pipeParamGet n => execPipeParamGet n s cfg
  | .pipeNoteOn note vel => execPipeNoteOn note vel s cfg
  | .pipeNoteOff note => execPipeNoteOff note s cfg
  | .pipeProcessBlock n => execPipeProcessBlock n s cfg

/-- `step` in the configuration `cfg`. -/
def stepIn (cfg : Config.Parameters N) (s : State.Of N) : ResultOf N := stepWith (execIn cfg) s

end Sys2Proof.Machine
end

