-- ==== Sys2Proof/Safety.lean ====
section
/-! DEFINITION. The terms claims are made in: the operations of engine `k`, the parts of the state a claim compares,
what a run within the spec's promise is, and the three properties of a state that every step keeps. -/

namespace Sys2Proof

/-! ## Ranges of a word -/

/-- The word is 0 or at least `DENORM_MIN` in magnitude, or is no number (R12). -/
def NUM.flushed (v : NUM) : Bool := decide (v.ftz = v)

/-- `lo <= v <= hi`; false when `v` is no number. -/
def NUM.within (lo hi v : NUM) : Bool := lo.le v && v.le hi

/-- `0 <= v <= 1`. -/
def NUM.inUnit (v : NUM) : Bool := NUM.within NUM.zero NUM.one v

/-- `0 <= v < 1`, a phase. -/
def NUM.inPhase (v : NUM) : Bool := NUM.zero.le v && v.lt NUM.one

/-- `-1 <= v <= 1`. -/
def NUM.inBipolar (v : NUM) : Bool := NUM.within NUM.one.neg NUM.one v

/-- `0 <= v < +Inf`. -/
def NUM.nonneg (v : NUM) : Bool := NUM.zero.le v && v.isFinite

/-- `0 <= v <= ENV_TMAX`, an envelope time. -/
def NUM.inTime (v : NUM) : Bool := NUM.within NUM.zero Config.reference.envTMax v

/-- `0 <= v < 2·PI`, a chorus phase (R56). -/
def NUM.inTurn (v : NUM) : Bool := NUM.zero.le v && v.lt Config.reference.twoPi

/-- `-2^32 <= v <= 2^32`: a number of ordinary size, no NaN and no infinity. -/
def NUM.tame (v : NUM) : Bool := NUM.within (NUM.ofInt (-4294967296)) (NUM.ofInt 4294967296) v

end Sys2Proof

namespace Sys2Proof.Machine

/-! ## The eight operations of engine `k` (R150) -/

/-- `E<k>.RESET` -/
def Engine.opReset : Engine → Instr
  | .sine => .e0Reset
  | .triangle => .e1Reset
  | .square => .e2Reset
  | .saw => .e3Reset
  | .supersaw => .e4Reset
  | .virtualAnalog => .e5Reset
  | .fm => .e6Reset
  | .formant => .e7Reset
  | .additive => .e8Reset
  | .chord => .e9Reset
  | .pluckedString => .e10Reset
  | .pwm => .e11Reset

/-- `E<k>.SET_SR v` -/
def Engine.opSetSr : Engine → Data → Instr
  | .sine, v => .e0SetSr v
  | .triangle, v => .e1SetSr v
  | .square, v => .e2SetSr v
  | .saw, v => .e3SetSr v
  | .supersaw, v => .e4SetSr v
  | .virtualAnalog, v => .e5SetSr v
  | .fm, v => .e6SetSr v
  | .formant, v => .e7SetSr v
  | .additive, v => .e8SetSr v
  | .chord, v => .e9SetSr v
  | .pluckedString, v => .e10SetSr v
  | .pwm, v => .e11SetSr v

/-- `E<k>.SET_FREQ v` -/
def Engine.opSetFreq : Engine → Data → Instr
  | .sine, v => .e0SetFreq v
  | .triangle, v => .e1SetFreq v
  | .square, v => .e2SetFreq v
  | .saw, v => .e3SetFreq v
  | .supersaw, v => .e4SetFreq v
  | .virtualAnalog, v => .e5SetFreq v
  | .fm, v => .e6SetFreq v
  | .formant, v => .e7SetFreq v
  | .additive, v => .e8SetFreq v
  | .chord, v => .e9SetFreq v
  | .pluckedString, v => .e10SetFreq v
  | .pwm, v => .e11SetFreq v

/-- `E<k>.SET_HARM v` -/
def Engine.opSetHarm : Engine → Data → Instr
  | .sine, v => .e0SetHarm v
  | .triangle, v => .e1SetHarm v
  | .square, v => .e2SetHarm v
  | .saw, v => .e3SetHarm v
  | .supersaw, v => .e4SetHarm v
  | .virtualAnalog, v => .e5SetHarm v
  | .fm, v => .e6SetHarm v
  | .formant, v => .e7SetHarm v
  | .additive, v => .e8SetHarm v
  | .chord, v => .e9SetHarm v
  | .pluckedString, v => .e10SetHarm v
  | .pwm, v => .e11SetHarm v

/-- `E<k>.SET_TIMB v` -/
def Engine.opSetTimb : Engine → Data → Instr
  | .sine, v => .e0SetTimb v
  | .triangle, v => .e1SetTimb v
  | .square, v => .e2SetTimb v
  | .saw, v => .e3SetTimb v
  | .supersaw, v => .e4SetTimb v
  | .virtualAnalog, v => .e5SetTimb v
  | .fm, v => .e6SetTimb v
  | .formant, v => .e7SetTimb v
  | .additive, v => .e8SetTimb v
  | .chord, v => .e9SetTimb v
  | .pluckedString, v => .e10SetTimb v
  | .pwm, v => .e11SetTimb v

/-- `E<k>.SET_MORPH v` -/
def Engine.opSetMorph : Engine → Data → Instr
  | .sine, v => .e0SetMorph v
  | .triangle, v => .e1SetMorph v
  | .square, v => .e2SetMorph v
  | .saw, v => .e3SetMorph v
  | .supersaw, v => .e4SetMorph v
  | .virtualAnalog, v => .e5SetMorph v
  | .fm, v => .e6SetMorph v
  | .formant, v => .e7SetMorph v
  | .additive, v => .e8SetMorph v
  | .chord, v => .e9SetMorph v
  | .pluckedString, v => .e10SetMorph v
  | .pwm, v => .e11SetMorph v

/-- `E<k>.SET_LEVEL v` -/
def Engine.opSetLevel : Engine → Data → Instr
  | .sine, v => .e0SetLevel v
  | .triangle, v => .e1SetLevel v
  | .square, v => .e2SetLevel v
  | .saw, v => .e3SetLevel v
  | .supersaw, v => .e4SetLevel v
  | .virtualAnalog, v => .e5SetLevel v
  | .fm, v => .e6SetLevel v
  | .formant, v => .e7SetLevel v
  | .additive, v => .e8SetLevel v
  | .chord, v => .e9SetLevel v
  | .pluckedString, v => .e10SetLevel v
  | .pwm, v => .e11SetLevel v

/-- `E<k>.PRODUCE` -/
def Engine.opProduce : Engine → Instr
  | .sine => .e0Produce
  | .triangle => .e1Produce
  | .square => .e2Produce
  | .saw => .e3Produce
  | .supersaw => .e4Produce
  | .virtualAnalog => .e5Produce
  | .fm => .e6Produce
  | .formant => .e7Produce
  | .additive => .e8Produce
  | .chord => .e9Produce
  | .pluckedString => .e10Produce
  | .pwm => .e11Produce

/-! ## Engine `k` inside the state -/

/-- The seven control fields of engine `k` (R38). -/
def State.Of.regs (s : State) : Engine → EngineRegs NUM
  | .sine => s.e0.regs
  | .triangle => s.e1.regs
  | .square => s.e2.regs
  | .saw => s.e3.regs
  | .supersaw => s.e4.regs
  | .virtualAnalog => s.e5.regs
  | .fm => s.e6.regs
  | .formant => s.e7.regs
  | .additive => s.e8.regs
  | .chord => s.e9.regs
  | .pluckedString => s.e10.regs
  | .pwm => s.e11.regs

/-- The state with the control fields of engine `k` replaced. -/
def State.Of.withRegs (s : State) (k : Engine) (r : EngineRegs NUM) : State :=
  match k with
  | .sine => { s with e0.regs := r }
  | .triangle => { s with e1.regs := r }
  | .square => { s with e2.regs := r }
  | .saw => { s with e3.regs := r }
  | .supersaw => { s with e4.regs := r }
  | .virtualAnalog => { s with e5.regs := r }
  | .fm => { s with e6.regs := r }
  | .formant => { s with e7.regs := r }
  | .additive => { s with e8.regs := r }
  | .chord => { s with e9.regs := r }
  | .pluckedString => { s with e10.regs := r }
  | .pwm => { s with e11.regs := r }

/-- The state with all of engine `k` taken from `src`. -/
def State.Of.copyEngine (s : State) (k : Engine) (src : State) : State :=
  match k with
  | .sine => { s with e0 := src.e0 }
  | .triangle => { s with e1 := src.e1 }
  | .square => { s with e2 := src.e2 }
  | .saw => { s with e3 := src.e3 }
  | .supersaw => { s with e4 := src.e4 }
  | .virtualAnalog => { s with e5 := src.e5 }
  | .fm => { s with e6 := src.e6 }
  | .formant => { s with e7 := src.e7 }
  | .additive => { s with e8 := src.e8 }
  | .chord => { s with e9 := src.e9 }
  | .pluckedString => { s with e10 := src.e10 }
  | .pwm => { s with e11 := src.e11 }

/-! ## Operand bits an operation reads (R113 to R115) -/

/-- The bits of `IDX` the operation `op` of `unit` reads: all for the two parameter operations, `IDX[6:0]` for the note
operations, `IDX[0]` for `PROCESS c, v`, none for any other. -/
def idxMask (unit op : BitVec 8) : Idx :=
  if unit = 0x3F#8 ∧ (op = 0x20#8 ∨ op = 0x21#8) then 0xFFFF#16
  else if unit = 0x3F#8 ∧ (op = 0x22#8 ∨ op = 0x23#8) then 0x007F#16
  else if op = 0x0E#8 ∧ (unit = 0x18#8 ∨ unit = 0x20#8 ∨ unit = 0x21#8 ∨ unit = 0x22#8) then 0x0001#16
  else 0#16

/-- The bits of `DATA` the operation `op` of `unit` reads: `DATA[6:0]` for a note-on, none for an operation without
`DATA` operand, all for any other. -/
def dataMask (unit op : BitVec 8) : Data :=
  if unit = 0x3F#8 ∧ op = 0x22#8 then 0x0000007F#32
  else if unit = 0x3F#8 ∧ (op = 0x21#8 ∨ op = 0x23#8) then 0#32
  else if op = 0x00#8 ∨ op = 0x07#8 ∨ op = 0x0C#8 ∨ op = 0x0D#8 then 0#32
  else if op = 0x0E#8 ∧ (unit = 0x10#8 ∨ unit = 0x11#8 ∨ unit = 0x12#8) then 0#32
  else 0xFFFFFFFF#32

/-! ## Who writes a status bit (R37) -/

/-- The operations that may write `ADSR.st`: ADSR's gates, `PROCESS` and `RESET`, and PIPE's operations that call them. -/
def writesAdsrStage : Instr → Bool
  | .adsrReset | .adsrGateOn | .adsrGateOff | .adsrProcess => true
  | .pipeFullReset | .pipeNoteOn _ _ | .pipeNoteOff _ | .pipeProcessBlock _ => true
  | _ => false

/-- The operations that may write `AD.st`. -/
def writesAdStage : Instr → Bool
  | .adReset | .adGateOn | .adGateOff | .adProcess => true
  | .pipeFullReset | .pipeNoteOn _ _ | .pipeNoteOff _ | .pipeProcessBlock _ => true
  | _ => false

/-- The operations that may write `PIPE.gate`. -/
def writesGate : Instr → Bool
  | .pipeFullReset | .pipeNoteOn _ _ | .pipeNoteOff _ => true
  | _ => false

/-- The operations that may write `PIPE.has_note`. -/
def writesHasNote : Instr → Bool
  | .pipeFullReset | .pipeNoteOn _ _ => true
  | _ => false

/-- The operations that may write `PIPE.was_silent`. -/
def writesWasSilent : Instr → Bool
  | .pipeFullReset | .pipeProcessBlock _ => true
  | _ => false

/-- The operation is `PIPE.PARAM_SET`. -/
def isParamSet : Instr → Bool
  | .pipeParamSet _ _ => true
  | _ => false

/-- The operation is `PIPE.PROCESS_BLOCK`. -/
def isProcessBlock : Instr → Bool
  | .pipeProcessBlock _ => true
  | _ => false

/-- The operation is one of unit `unit`, or one of PIPE, which reaches a unit through its operations (R30). -/
def mayTouch (unit : BitVec 8) (i : Instr) : Bool :=
  decide (unitField (encode i) = unit) || decide (unitField (encode i) = 0x3F#8)

/-! ## Runs -/

/-- `n` steps in a row. -/
def steps : Nat → State → Host.Outcome State Fault Refusal
  | 0, s => .next s
  | n + 1, s =>
    match step s with
    | .next t => steps n t
    | .fault f => .fault f
    | .refused r => .refused r

/-- The operation does not ask for a block longer than `MAX_FRAMES`: the premise of R496 and R553 (a). -/
def withinMaxFrames {N : Type} (cfg : Config.Parameters N) : Instr → Prop
  | .pipeProcessBlock n => countOf n ≤ cfg.maxFrames.toNat
  | _ => True

/-- The next command does not ask for a block longer than `MAX_FRAMES` (R553 (a)). -/
def State.Of.withinPromise {N : Type} (cfg : Config.Parameters N) (s : State.Of N) : Prop :=
  ∀ cw rest i, s.cmds = cw :: rest → decode cw = .ok i → withinMaxFrames cfg i

/-! ## Shape: buffers, cursors, counters, codes, note state, in any configuration -/

section
variable {N : Type} [DecidableEq N]

/-- A line of `len` words: canonical contents, cursor below the capacity (R57, R59). -/
def Line.wellShaped (cfg : Config.Parameters N) (len : Nat) (l : Line N) : Bool :=
  Memory.wf len l.buf cfg && Nat.blt l.idx len

/-- The buffers of E10 and its cursor and counter (R49). -/
def PluckedString.wellShaped (cfg : Config.Parameters N) (e : PluckedString N) : Bool :=
  Memory.wf cfg.strCap e.bufA cfg && Memory.wf cfg.strCap e.bufB cfg && Nat.blt e.w cfg.strCap &&
  Nat.blt e.excnt cfg.strStrikePeriod

/-- The counter of E6 (R45, R548). -/
def FmPair.wellShaped (e : FmPair N) : Bool := Nat.blt e.cnt Config.fmPeriod

/-- The counter of E11 (R50, R548). -/
def PwmOsc.wellShaped (cfg : Config.Parameters N) (e : PwmOsc N) : Bool := Nat.blt e.dcnt cfg.pwmDriftPeriod

/-- The buffer and the cursor of one delay channel (R55). -/
def DelayChannel.wellShaped (cfg : Config.Parameters N) (u : DelayChannel N) : Bool :=
  Memory.wf cfg.dlyCap u.buf cfg && Nat.blt u.w cfg.dlyCap

/-- The buffer and the cursor of one chorus channel (R56). -/
def ChorusChannel.wellShaped (cfg : Config.Parameters N) (u : ChorusChannel N) : Bool :=
  Memory.wf cfg.choCap u.buf cfg && Nat.blt u.w cfg.choCap

/-- The six lines of one reverb channel (R57). -/
def ReverbChannel.wellShaped (cfg : Config.Parameters N) (c : Chan) (u : ReverbChannel N) : Bool :=
  u.comb0.wellShaped cfg (revCombLen cfg c 0) && u.comb1.wellShaped cfg (revCombLen cfg c 1) &&
  u.comb2.wellShaped cfg (revCombLen cfg c 2) && u.comb3.wellShaped cfg (revCombLen cfg c 3) &&
  u.ap0.wellShaped cfg (revApLen cfg c 0) && u.ap1.wellShaped cfg (revApLen cfg c 1)

/-- `sel_prev` is an engine index or 15 (R35); a held gate has had its note-on; `note_freq` is the frequency of the held
note once a note-on has been taken (R34). -/
def Pipe.wellShaped (cfg : Config.Parameters N) (p : Pipe N) : Bool :=
  (Nat.ble p.selPrev.toNat 11 || decide (p.selPrev = 15#4)) && (!p.gate || p.hasNote) &&
  (!p.hasNote || decide (p.noteFreq = cfg.ftz (notefreq cfg p.heldNote)))

/-- Every buffer is in canonical form, every cursor is below its capacity, every counter below its period, and the
pipeline's codes and note state agree (R59, R84, R548). -/
def State.Of.wellShaped (cfg : Config.Parameters N) (s : State.Of N) : Bool :=
  s.e10.wellShaped cfg && s.e6.wellShaped && s.e11.wellShaped cfg &&
  s.dly.ch.l.wellShaped cfg && s.dly.ch.r.wellShaped cfg && s.cho.ch.l.wellShaped cfg && s.cho.ch.r.wellShaped cfg &&
  s.rev.ch.l.wellShaped cfg .left && s.rev.ch.r.wellShaped cfg .right && s.pipe.wellShaped cfg

end

/-! ## Flushed: no state word is a denormal (R12, R170) -/

def Bank.flushed {n : Nat} (b : Bank n NUM) : Bool := b.words.all NUM.flushed

def Memory.flushed (m : Memory NUM) : Bool := m.all fun c => c.2.flushed

def EngineRegs.flushed (r : EngineRegs NUM) : Bool :=
  r.sr.flushed && r.freq.flushed && r.harm.flushed && r.timb.flushed && r.morph.flushed &&
  r.level.flushed

def PwmChannel.flushed (u : PwmChannel NUM) : Bool :=
  u.ph.flushed && u.drift.flushed && u.target.flushed && u.dcx.flushed && u.dcy.flushed

def ReverbChannel.flushed (u : ReverbChannel NUM) : Bool :=
  Memory.flushed u.comb0.buf && Memory.flushed u.comb1.buf && Memory.flushed u.comb2.buf &&
  Memory.flushed u.comb3.buf && Memory.flushed u.ap0.buf && Memory.flushed u.ap1.buf

/-- The engines' fields are flushed. -/
def State.Of.enginesFlushed (s : State) : Bool :=
  s.e0.regs.flushed && s.e0.ph.flushed &&
  s.e1.regs.flushed && s.e1.ph.flushed && s.e1.integ.flushed && s.e1.lp.flushed &&
  s.e2.regs.flushed && s.e2.ph.flushed && s.e2.lp.flushed &&
  s.e3.regs.flushed && s.e3.ph.flushed && s.e3.lp.flushed &&
  s.e4.regs.flushed && s.e4.ph.flushed &&
  s.e5.regs.flushed && s.e5.phA.flushed && s.e5.phB.flushed &&
  s.e6.regs.flushed && s.e6.phC.flushed && s.e6.phM.flushed && s.e6.fbz.flushed && s.e6.env.flushed &&
  s.e7.regs.flushed && s.e7.ph.flushed && s.e7.ic1.flushed && s.e7.ic2.flushed &&
  s.e8.regs.flushed && s.e8.ph.flushed && s.e8.det.flushed &&
  s.e9.regs.flushed && s.e9.ph.flushed &&
  s.e10.regs.flushed && Memory.flushed s.e10.bufA && Memory.flushed s.e10.bufB && s.e10.lpA.flushed &&
  s.e10.lpB.flushed && s.e10.apz.flushed && s.e10.bow.flushed &&
  s.e11.regs.flushed && s.e11.ch.l.flushed && s.e11.ch.r.flushed

/-- The latched parameters are flushed (log 11). -/
def Latch.flushed (l : Latch NUM) : Bool :=
  l.harm.flushed && l.timb.flushed && l.morph.flushed && l.freq.flushed && l.level.flushed && l.attack.flushed &&
  l.decay.flushed && l.sustain.flushed && l.release.flushed && l.lfoFreq.flushed && l.lfoVar.flushed &&
  l.reverb.flushed && l.delay.flushed && l.chorus.flushed && l.cutoff.flushed && l.resonance.flushed && l.wet.flushed

/-- The fields of the other units are flushed, the parameter registers apart: those are the host's words, stored as given
(R485, log 9). -/
def State.Of.unitsFlushed (s : State) : Bool :=
  s.adsr.level.flushed && s.adsr.sr.flushed && s.adsr.a.flushed && s.adsr.d.flushed &&
  s.adsr.s.flushed && s.adsr.r.flushed &&
  s.ad.level.flushed && s.ad.sr.flushed && s.ad.a.flushed && s.ad.d.flushed &&
  s.lfo.ph.flushed && s.lfo.rnd.flushed && s.lfo.sr.flushed && s.lfo.freq.flushed &&
  s.lfo.variation.flushed &&
  s.flt.s.l.flushed && s.flt.s.r.flushed && s.flt.sr.flushed && s.flt.fc.flushed && s.flt.res.flushed &&
  s.flt.wet.flushed &&
  Memory.flushed s.dly.ch.l.buf && s.dly.ch.l.lp.flushed && Memory.flushed s.dly.ch.r.buf &&
  s.dly.ch.r.lp.flushed && s.dly.amount.flushed &&
  Memory.flushed s.cho.ch.l.buf && s.cho.ch.l.phi.flushed && Memory.flushed s.cho.ch.r.buf && s.cho.ch.r.phi.flushed &&
  s.cho.amount.flushed &&
  s.rev.ch.l.flushed && s.rev.ch.r.flushed && s.rev.amount.flushed &&
  s.pipe.noteFreq.flushed && s.pipe.adLevel.flushed && s.pipe.pl.flushed

/-- No field and no buffer word of the block but `P[0..18]` holds a denormal (R12, log 9). -/
def State.Of.flushed (s : State) : Bool := s.enginesFlushed && s.unitsFlushed

/-! ## Legal: registers, phases and levels in the ranges 10_state.md gives them -/

/-- The legal values of the control registers (R38). -/
def EngineRegs.legal (r : EngineRegs NUM) : Bool :=
  r.sr.isRate && r.freq.nonneg && r.harm.inUnit && r.timb.inUnit && r.morph.inUnit && r.level.inUnit

def Bank.inPhase {n : Nat} (b : Bank n NUM) : Bool := b.words.all NUM.inPhase

/-- The control registers of the twelve engines are legal; every phase is in [0, 1); the FM envelope is in [0, 1] and
the drifts and their targets in [-1, 1] (R38 to R50). The bound `sr/2` of a frequency is `State.tuned`. -/
def State.Of.enginesLegal (s : State) : Bool :=
  s.e0.regs.legal && s.e1.regs.legal && s.e2.regs.legal && s.e3.regs.legal && s.e4.regs.legal && s.e5.regs.legal &&
  s.e6.regs.legal && s.e7.regs.legal && s.e8.regs.legal && s.e9.regs.legal && s.e10.regs.legal && s.e11.regs.legal &&
  s.e0.ph.inPhase && s.e1.ph.inPhase && s.e2.ph.inPhase && s.e3.ph.inPhase && s.e4.ph.inPhase &&
  s.e5.phA.inPhase && s.e5.phB.inPhase && s.e6.phC.inPhase && s.e6.phM.inPhase && s.e6.env.inUnit &&
  s.e7.ph.inPhase && s.e8.ph.inPhase && s.e9.ph.inPhase && s.e11.ch.l.ph.inPhase && s.e11.ch.r.ph.inPhase &&
  s.e11.ch.l.drift.inBipolar && s.e11.ch.r.drift.inBipolar && s.e11.ch.l.target.inBipolar && s.e11.ch.r.target.inBipolar

/-- The registers, levels and phases of the modulators, the filter and the effects (R51 to R57). The cutoff's upper bound
is the larger of `FC_MAX_RATIO·sr` and `FC_MIN`, which R405 stores for a NaN whatever the sample rate is. -/
def State.Of.unitsLegal (s : State) : Bool :=
  s.adsr.level.inUnit && s.adsr.sr.isRate && s.adsr.a.inTime && s.adsr.d.inTime && s.adsr.s.inUnit &&
  s.adsr.r.inTime &&
  s.ad.level.inUnit && s.ad.sr.isRate && s.ad.a.inTime && s.ad.d.inTime &&
  s.lfo.ph.inPhase && s.lfo.rnd.inBipolar && s.lfo.sr.isRate && s.lfo.freq.nonneg && s.lfo.variation.inUnit &&
  s.flt.sr.isRate && NUM.zero.le s.flt.fc &&
  s.flt.fc.le ((Config.reference.fcMaxRatio.mul s.flt.sr).max Config.reference.fcMin) &&
  NUM.within NUM.zero Config.reference.resMax s.flt.res && s.flt.wet.inUnit &&
  s.dly.amount.inUnit && s.cho.amount.inUnit && s.rev.amount.inUnit &&
  s.cho.ch.l.phi.words.all NUM.inTurn && s.cho.ch.r.phi.words.all NUM.inTurn && s.pipe.adLevel.inUnit

/-- Every control register, phase and level is in its range (R38 to R57, R59). -/
def State.Of.legal (s : State) : Bool := s.enginesLegal && s.unitsLegal

/-! ## Tuned: the bounds that depend on a unit's sample rate -/

/-- `freq <= sr/2` (R38). -/
def EngineRegs.tuned (r : EngineRegs NUM) : Bool := r.freq.le (r.sr.div NUM.two)

/-- The frequency of every engine and of the LFO is at most half the unit's sample rate, and the cutoff is in
`FC_MIN` .. `FC_MAX_RATIO·sr` (R38, R53, R54). A new sample rate keeps the frequency, so `SET_SR` may leave it. -/
def State.Of.tuned (s : State) : Bool :=
  s.e0.regs.tuned && s.e1.regs.tuned && s.e2.regs.tuned && s.e3.regs.tuned && s.e4.regs.tuned && s.e5.regs.tuned &&
  s.e6.regs.tuned && s.e7.regs.tuned && s.e8.regs.tuned && s.e9.regs.tuned && s.e10.regs.tuned && s.e11.regs.tuned &&
  s.lfo.freq.le (s.lfo.sr.div NUM.two) &&
  Config.reference.fcMin.le (Config.reference.fcMaxRatio.mul s.flt.sr) && Config.reference.fcMin.le s.flt.fc &&
  s.flt.fc.le (Config.reference.fcMaxRatio.mul s.flt.sr)

/-- The next command is no `SET_SR` of any unit (`OP` 01, R113). -/
def State.Of.keepsRates (s : State) : Prop := ∀ cw rest, s.cmds = cw :: rest → opField cw ≠ 0x01#8

/-! ## Tame: a unit whose registers are legal and whose words are of ordinary size (R171) -/

def Bank.tame {n : Nat} (b : Bank n NUM) : Bool := b.words.all NUM.tame

def Memory.tame (m : Memory NUM) : Bool := m.all fun c => c.2.tame

def PwmChannel.tame (u : PwmChannel NUM) : Bool :=
  u.ph.inPhase && u.drift.tame && u.target.tame && u.dcx.tame && u.dcy.tame

/-- Engine `k`'s control registers are legal, its phases in [0, 1) and its other words tame. -/
def State.Of.engineTame (s : State) : Engine → Bool
  | .sine => s.e0.regs.legal && s.e0.ph.inPhase
  | .triangle => s.e1.regs.legal && s.e1.ph.inPhase && s.e1.integ.tame && s.e1.lp.tame
  | .square => s.e2.regs.legal && s.e2.ph.inPhase && s.e2.lp.tame
  | .saw => s.e3.regs.legal && s.e3.ph.inPhase && s.e3.lp.tame
  | .supersaw => s.e4.regs.legal && s.e4.ph.inPhase
  | .virtualAnalog => s.e5.regs.legal && s.e5.phA.inPhase && s.e5.phB.inPhase
  | .fm => s.e6.regs.legal && s.e6.phC.inPhase && s.e6.phM.inPhase && s.e6.fbz.tame && s.e6.env.inUnit
  | .formant => s.e7.regs.legal && s.e7.ph.inPhase && s.e7.ic1.tame && s.e7.ic2.tame
  | .additive => s.e8.regs.legal && s.e8.ph.inPhase && s.e8.det.tame
  | .chord => s.e9.regs.legal && s.e9.ph.inPhase
  | .pluckedString =>
    s.e10.regs.legal && Memory.tame s.e10.bufA && Memory.tame s.e10.bufB && s.e10.lpA.tame && s.e10.lpB.tame &&
    s.e10.apz.tame && s.e10.bow.tame
  | .pwm => s.e11.regs.legal && s.e11.ch.l.tame && s.e11.ch.r.tame

/-- The filter's registers are legal, the cutoff at most `FC_MAX_RATIO·sr`, and the cutoff and the stage states tame. -/
def Ladder.tame (cfg : Config.Parameters NUM) (u : Ladder NUM) : Bool :=
  u.sr.isRate && u.fc.tame && NUM.within NUM.zero (cfg.fcMaxRatio.mul u.sr) u.fc && NUM.within NUM.zero cfg.resMax u.res &&
  u.wet.inUnit && u.s.l.tame && u.s.r.tame

/-- The words of one delay channel are tame. -/
def DelayChannel.tame (u : DelayChannel NUM) : Bool := Memory.tame u.buf && u.lp.tame

/-- The words of one chorus channel are tame, its cursor inside the buffer, its phases in [0, 2·PI). -/
def ChorusChannel.tame (cfg : Config.Parameters NUM) (u : ChorusChannel NUM) : Bool :=
  Memory.tame u.buf && Nat.blt u.w cfg.choCap && u.phi.words.all NUM.inTurn

/-- The words of the six lines of one reverb channel are tame. -/
def ReverbChannel.tame (u : ReverbChannel NUM) : Bool :=
  Memory.tame u.comb0.buf && Memory.tame u.comb1.buf && Memory.tame u.comb2.buf && Memory.tame u.comb3.buf &&
  Memory.tame u.ap0.buf && Memory.tame u.ap1.buf

end Sys2Proof.Machine
end

