-- ==== Sys2Proof/Config/Admissible.lean ====
section
/-! DEFINITION. The premise on a whole configuration (R7, R553 (b), (c)): the bounds of Sys2Proof/Config.lean on the format,
the functions and the numbers, and the premise of R172 on an engine body that replaces the spec's. -/

namespace Sys2Proof.Config

open Sys2Proof.Machine

/-! ## Engine bodies (R172, 93 U6)

DEDUCED (log 1): R172 constrains a body "only by the sourced facts", and 93 U6 reads them as a finite, bounded raw output and
only own state written. The last is the type of a body; the others are asked of every run of the engine: from its reset, under
any control settings in their ranges, over any draws. To them come the two sourced facts about the state that every rule
keeps: no denormal (R12) and the shape of the buffers and counters (R59, R548). -/

/-- What the premise has to know of one engine: its control fields, its private words, its reset and its shape. -/
structure EngineParts (E N : Type) where
  regs : E → EngineRegs N
  withRegs : E → EngineRegs N → E
  words : E → List N
  reset : E → E
  shape : E → Bool

section
variable {N : Type} (F : Format N)

/-- The control fields are in their ranges (R38), the bound `sr/2` of the frequency apart, which a `SET_SR` may leave. -/
structure Format.ControlsInRange (r : EngineRegs N) : Prop where
  sr : F.Within (Set.Ioi 0) r.sr
  freq : F.Within (Set.Ici 0) r.freq
  harm : F.Within (Set.Icc 0 1) r.harm
  timb : F.Within (Set.Icc 0 1) r.timb
  morph : F.Within (Set.Icc 0 1) r.morph
  level : F.Within (Set.Icc 0 1) r.level

/-- `inv` holds on every run of the body `f` from a reset, and keeps the raw pair within `bound`, the private words finite
and flushed. -/
structure Format.BodyBounded {E : Type} (p : EngineParts E N) (f : EngineBody E N) (inv : E → Prop) (bound : ℚ) :
    Prop where
  reset : ∀ e, inv (p.reset e)
  controls : ∀ e r, inv e → inv (p.withRegs e r)
  state : ∀ e d, inv e → F.ControlsInRange (p.regs e) → (∀ i, F.Within (Set.Ico 0 1) (d i)) →
    inv (f e d).state ∧ ∀ w ∈ p.words (f e d).state, F.isFinite w = true ∧ F.ftz w = w
  output : ∀ e d, inv e → F.ControlsInRange (p.regs e) → (∀ i, F.Within (Set.Ico 0 1) (d i)) →
    F.Within (Set.Icc (-bound) bound) (f e d).xL ∧ F.Within (Set.Icc (-bound) bound) (f e d).xR

/-- The premise of R172 on a body, if there is one: on the spec's reference body there is none. -/
structure Format.BodyAdmissible {E : Type} (p : EngineParts E N) (body : Option (EngineBody E N)) : Prop where
  shape : ∀ f ∈ body, ∀ e d, p.shape e = true → p.shape (f e d).state = true
  bounded : ∀ f ∈ body, ∃ inv bound, F.BodyBounded p f inv bound

/-- The words of one channel of E11 (R50). -/
def pwmWords (u : PwmChannel N) : List N := [u.ph, u.drift, u.target, u.dcx, u.dcy]

variable (cfg : Parameters N) [DecidableEq N]

/-- The premise of R172 on the twelve bodies. -/
structure Parameters.BodiesAdmissible : Prop where
  sine : cfg.BodyAdmissible ⟨(·.regs), fun e r => { e with regs := r }, fun e => [e.ph], SineOsc.reset cfg, fun _ => true⟩
    cfg.engineBody.sine
  triangle : cfg.BodyAdmissible
    ⟨(·.regs), fun e r => { e with regs := r }, fun e => [e.ph, e.integ, e.lp], TriangleOsc.reset cfg, fun _ => true⟩
    cfg.engineBody.triangle
  square : cfg.BodyAdmissible
    ⟨(·.regs), fun e r => { e with regs := r }, fun e => [e.ph, e.lp], SquareOsc.reset cfg, fun _ => true⟩
    cfg.engineBody.square
  saw : cfg.BodyAdmissible
    ⟨(·.regs), fun e r => { e with regs := r }, fun e => [e.ph, e.lp], SawOsc.reset cfg, fun _ => true⟩
    cfg.engineBody.saw
  supersaw : cfg.BodyAdmissible
    ⟨(·.regs), fun e r => { e with regs := r }, fun e => e.ph.words, SupersawBank.reset cfg, fun _ => true⟩
    cfg.engineBody.supersaw
  virtualAnalog : cfg.BodyAdmissible
    ⟨(·.regs), fun e r => { e with regs := r }, fun e => [e.phA, e.phB], VirtualAnalog.reset cfg, fun _ => true⟩
    cfg.engineBody.virtualAnalog
  fm : cfg.BodyAdmissible
    ⟨(·.regs), fun e r => { e with regs := r }, fun e => [e.phC, e.phM, e.fbz, e.env], FmPair.reset cfg,
      FmPair.wellShaped⟩
    cfg.engineBody.fm
  formant : cfg.BodyAdmissible
    ⟨(·.regs), fun e r => { e with regs := r }, fun e => e.ph :: e.ic1.words ++ e.ic2.words, FormantFilter.reset cfg,
      fun _ => true⟩
    cfg.engineBody.formant
  additive : cfg.BodyAdmissible
    ⟨(·.regs), fun e r => { e with regs := r }, fun e => e.ph.words ++ e.det.words, AdditiveBank.reset cfg, fun _ => true⟩
    cfg.engineBody.additive
  chord : cfg.BodyAdmissible
    ⟨(·.regs), fun e r => { e with regs := r }, fun e => e.ph.words, ChordStack.reset cfg, fun _ => true⟩
    cfg.engineBody.chord
  pluckedString : cfg.BodyAdmissible
    ⟨(·.regs), fun e r => { e with regs := r },
      fun e => (e.bufA ++ e.bufB).map (·.2) ++ [e.lpA, e.lpB, e.apz, e.bow], PluckedString.reset cfg,
      PluckedString.wellShaped cfg⟩
    cfg.engineBody.pluckedString
  pwm : cfg.BodyAdmissible
    ⟨(·.regs), fun e r => { e with regs := r }, fun e => pwmWords e.ch.l ++ pwmWords e.ch.r, PwmOsc.reset cfg,
      PwmOsc.wellShaped cfg⟩
    cfg.engineBody.pwm

/-! ## The whole premise -/

/-- The configuration keeps every bound its defining rules state: the premise R7 asks for. A configuration outside it is
outside the spec's promise (R553 (b), (c)). -/
structure Parameters.Admissible : Prop where
  order : cfg.OrderAdmissible
  arithmetic : cfg.ArithmeticAdmissible
  ports : cfg.PortsAdmissible
  functions : cfg.FunctionsAdmissible
  globals : cfg.GlobalsAdmissible
  oscillators : cfg.OscillatorsAdmissible
  stringPwm : cfg.StringPwmAdmissible
  effects : cfg.EffectsAdmissible
  bodies : cfg.BodiesAdmissible

end

end Sys2Proof.Config
end

