-- ==== Sys2Proof/Certificates/Slice0/Obligations.lean ====
section
/-! DEFINITION. The statements about the block. Each docstring names the rules it formalises and, where a clause is the
model's choice, the log entry. An equation `exec i s = .next t` gives the whole next state: every field that `t` does
not change, every buffer word and the ports included, is as in `s`. A statement that covers `PROCESS_BLOCK` has the premise
of R553 (a), for every value `M` of `MAX_FRAMES`, which is OPEN and which no meaning reads (R6, log 12). -/

open Sys2Proof Sys2Proof.Machine

/-! ## Encoding and the step -/

/-- R111, R113: the command word written for a well-formed operation is read back as that operation. -/
def Obligations.DecodeOfEncodeIsIdentity : Prop :=
  ∀ i : Instr, i.wellFormed = true → decode (encode i) = .ok i

/-- R111, R113, R115: what the decoder reads is well formed and belongs to the word's `UNIT` and `OP`. -/
def Obligations.DecodedOperationIsWellFormed : Prop :=
  ∀ (cw : CommandWord) (i : Instr), decode cw = .ok i →
    i.wellFormed = true ∧ unitField (encode i) = unitField cw ∧ opField (encode i) = opField cw

/-- R113: 139 operations, no two with the same `UNIT` and `OP`. -/
def Obligations.OperationMapRowsAreDistinct : Prop :=
  opRows.length = 139 ∧ opRows.Pairwise fun a b => ¬ (a.unit = b.unit ∧ a.op = b.op)

/-- The command words of section 2.2 of 95_test_vectors.md decode to the operations the section gives. -/
def Obligations.SpecExampleWordsDecode : Prop :=
  decode 0x3F00000000000000#64 = .ok .pipeFullReset ∧
  decode 0x3F20000443DC0000#64 = .ok (.pipeParamSet 4#16 0x43DC0000#32) ∧
  decode 0x3F21000500000000#64 = .ok (.pipeParamGet 5#16) ∧
  decode 0x3F22004500000064#64 = .ok (.pipeNoteOn 69#16 100#32) ∧
  decode 0x3F23003C00000000#64 = .ok (.pipeNoteOff 60#16) ∧
  decode 0x3F24000000000030#64 = .ok (.pipeProcessBlock 48#32) ∧
  decode 0x0002000043DC0000#64 = .ok (.e0SetFreq 0x43DC0000#32) ∧
  decode 0x0B07000000000000#64 = .ok .e11Produce ∧
  decode 0x100800003A83126F#64 = .ok (.adsrSetAttack 0x3A83126F#32) ∧
  decode 0x1210000040000000#64 = .ok (.lfoSetWave 0x40000000#32) ∧
  decode 0x180E00013F000000#64 = .ok (.fltProcess 1#16 0x3F000000#32) ∧
  decode 0x201500003F000000#64 = .ok (.dlySetAmount 0x3F000000#32) ∧
  decode 0x2200000000000000#64 = .ok .revReset ∧
  decode 0x0C00000000000000#64 = .error .reservedUnit ∧
  decode 0x2001000000000000#64 = .error .reservedOp

/-- R118: a command word whose `UNIT` and `OP` stand for no operation changes no state (the word is taken off the port)
and returns `RW = 0`; and the fields an operation does not read may hold any value. -/
def Obligations.ReservedWordIsNoOperationAndIgnoredFieldsDoNotMatter : Prop :=
  (∀ (s : State) (cw : CommandWord) (rest : List CommandWord), s.cmds = cw :: rest →
    (∀ r ∈ opRows, ¬ (r.unit = unitField cw ∧ r.op = opField cw)) →
    step s = .next (({ s with cmds := rest } : State).respond 0#32 0#32)) ∧
  (∀ (unit op : BitVec 8) (idx idx' : Idx) (data data' : Data),
    idx &&& idxMask unit op = idx' &&& idxMask unit op → data &&& dataMask unit op = data' &&& dataMask unit op →
    decodeFields unit op idx data = decodeFields unit op idx' data')

/-- R110, R483, R552: a step takes the first command off the port and runs the operation it stands for; with no command
pending nothing changes. -/
def Obligations.StepRunsTheDecodedOperation : Prop :=
  (∀ (s : State) (cw : CommandWord) (rest : List CommandWord) (i : Instr), s.cmds = cw :: rest → decode cw = .ok i →
    step s = exec i { s with cmds := rest }) ∧
  (∀ s : State, s.cmds = [] → step s = .next s)

/-- R540, R110, R116: every step completes, takes one command, returns exactly one response word for it and only adds to
what the audio port has emitted. -/
def Obligations.EveryStepCompletesWithOneResponse : Prop :=
  ∀ (M : BitVec 32) (s : State), s.withinPromise (Config.referenceAt M) →
    ∃ (t : State) (new : List ResponseWord) (frames : List Frame), step s = .next t ∧ t.cmds = s.cmds.tail ∧
      t.responses = s.responses ++ new ∧ new.length = min 1 s.cmds.length ∧ t.audio = s.audio ++ frames

/-! ## The engine contract -/

/-- R153, R351, R366, R382, R404: a sample rate that is a positive finite number is stored; any other value changes
nothing; the filter's cutoff is clamped to the new range. A positive denormal is among the values that change nothing:
the model's choice (log 8). -/
def Obligations.SampleRateIsStoredOnlyWhenPositiveAndFinite : Prop :=
  let cfg := Config.reference
  ∀ (v : Data) (s : State),
    let x := numOf v
    let ok := x.isFinite && !x.sign && Nat.ble NUM.denormMinMag x.mag
    (∀ k : Engine, exec (k.opSetSr v) s =
      .next ((s.withRegs k (if ok then { s.regs k with sr := x } else s.regs k)).respond 0#32 0#32)) ∧
    exec (.adsrSetSr v) s =
      .next ((if ok then { s with adsr := { s.adsr with sr := x } } else s : State).respond 0#32 0#32) ∧
    exec (.adSetSr v) s = .next ((if ok then { s with ad := { s.ad with sr := x } } else s : State).respond 0#32 0#32) ∧
    exec (.lfoSetSr v) s = .next ((if ok then { s with lfo := { s.lfo with sr := x } } else s : State).respond 0#32 0#32) ∧
    exec (.fltSetSr v) s =
      .next ((if ok then { s with flt := { s.flt with
          sr := x, fc := (s.flt.fc.clamp cfg.fcMin (cfg.fcMaxRatio.mul x)).ftz } } else s : State).respond 0#32 0#32)

/-- R160 to R163, R166, R167: the primitives of the contract written out on `NUM`. The model's choice: `INC_MAX` is 0.5
(CHOSEN, log 1), the generator is the spec's default one (log 17) and each operator of `blpulse` and `bright` rounds, `p + 1`
too (DESIGN CHOICE, logs 26 and 42). -/
def Obligations.ContractPrimitivesAreAsWritten : Prop :=
  let cfg := Config.reference
  ∀ (f sr t dt p pw x y : NUM) (u : BitVec 32) (r : EngineRegs NUM) (k : Nat),
    let one := NUM.ofNat 1
    let out := fun v => (r.level.mul (cfg.engineGain k)).mul
      (cfg.tanh (v.add (cfg.noiseAmp.mul ((NUM.two.mul (cfg.rngOut (cfg.rngStep r.seed))).sub one))))
    inc cfg f sr = ((f.max NUM.zero).div sr).min (NUM.ofRat 5 10) ∧
    polyblep cfg t dt = (if dt.le NUM.zero then NUM.zero
      else if t.lt dt then (((t.div dt).add (t.div dt)).sub ((t.div dt).mul (t.div dt))).sub one
      else if (one.sub dt).lt t then
        ((((((t.sub one).div dt).mul ((t.sub one).div dt)).add ((t.sub one).div dt)).add ((t.sub one).div dt)).add one)
      else NUM.zero) ∧
    blsaw cfg p dt = ((NUM.two.mul p).sub one).sub (polyblep cfg p dt) ∧
    blpulse cfg p dt pw =
      ((if p.lt pw then one else one.neg).add (polyblep cfg p dt)).sub (polyblep cfg ((p.add one).sub pw).wrap1 dt) ∧
    blsquare cfg p dt = blpulse cfg p dt (NUM.ofRat 5 10) ∧
    cfg.rngStep u = 1664525#32 * u + 1013904223#32 ∧
    cfg.rngOut u = NUM.ofRat ((u.toNat / 256 : Nat) : Int) (2 ^ 24) ∧
    bright cfg r p x = (p.add ((cfg.brightMin.add ((one.sub cfg.brightMin).mul r.harm)).mul (x.sub p))).ftz ∧
    outstage cfg k r x y = (⟨out x, out y⟩, { r with seed := cfg.rngStep r.seed })

/-- R154. -/
def Obligations.FrequencyIsSanitisedToHalfTheSampleRate : Prop :=
  ∀ (k : Engine) (v : Data) (s : State),
    exec (k.opSetFreq v) s = .next ((s.withRegs k
      { s.regs k with freq := ((numOf v).san NUM.zero ((s.regs k).sr.div NUM.two)).ftz }).respond 0#32 0#32)

/-- R155 to R158. -/
def Obligations.TimbreControlsAndLevelAreSanitisedToTheUnitRange : Prop :=
  ∀ (k : Engine) (v : Data) (s : State),
    let x := ((numOf v).san NUM.zero NUM.one).ftz
    exec (k.opSetHarm v) s = .next ((s.withRegs k { s.regs k with harm := x }).respond 0#32 0#32) ∧
    exec (k.opSetTimb v) s = .next ((s.withRegs k { s.regs k with timb := x }).respond 0#32 0#32) ∧
    exec (k.opSetMorph v) s = .next ((s.withRegs k { s.regs k with morph := x }).respond 0#32 0#32) ∧
    exec (k.opSetLevel v) s = .next ((s.withRegs k { s.regs k with level := x }).respond 0#32 0#32)

/-- R191, R201, R211, R221, R241, R261, R281, R291, R311, R331: the resets that draw nothing. The control fields and the
seed of the engine stay. -/
def Obligations.EngineResetZeroesPrivateState : Prop :=
  ∀ s : State,
    let z := NUM.zero
    exec .e0Reset s = .next (({ s with e0 := { regs := s.e0.regs, ph := z } } : State).respond 0#32 0#32) ∧
    exec .e1Reset s =
      .next (({ s with e1 := { regs := s.e1.regs, ph := z, integ := z, lp := z } } : State).respond 0#32 0#32) ∧
    exec .e2Reset s = .next (({ s with e2 := { regs := s.e2.regs, ph := z, lp := z } } : State).respond 0#32 0#32) ∧
    exec .e3Reset s = .next (({ s with e3 := { regs := s.e3.regs, ph := z, lp := z } } : State).respond 0#32 0#32) ∧
    exec .e5Reset s = .next (({ s with e5 := { regs := s.e5.regs, phA := z, phB := z } } : State).respond 0#32 0#32) ∧
    exec .e6Reset s =
      .next (({ s with e6 := { regs := s.e6.regs, phC := z, phM := z, fbz := z, env := z, cnt := 0 } }
        : State).respond 0#32 0#32) ∧
    exec .e7Reset s =
      .next (({ s with e7 := { regs := s.e7.regs, ph := z, ic1 := Bank.fill 3 z, ic2 := Bank.fill 3 z } }
        : State).respond 0#32 0#32) ∧
    exec .e9Reset s = .next (({ s with e9 := { regs := s.e9.regs, ph := Bank.fill 4 z } } : State).respond 0#32 0#32) ∧
    exec .e10Reset s =
      .next (({ s with e10 := { regs := s.e10.regs, bufA := [], bufB := [], w := 0, lpA := z, lpB := z, apz := z,
                                bow := z, excnt := 0 } } : State).respond 0#32 0#32) ∧
    exec .e11Reset s =
      .next (({ s with e11 := { regs := s.e11.regs, ch := ⟨⟨z, z, z, z, z⟩, ⟨z, z, z, z, z⟩⟩, dcnt := 0 } }
        : State).respond 0#32 0#32)

/-- R231, R251: the resets of E4 and E8 draw each phase and each detune in order, and the seed advances by the nine or
thirty-two draws made. `RNG_STEP` iterated `n` times gives the seed of draw `n`. -/
def Obligations.DrawingResetsDrawInOrder : Prop :=
  let cfg := Config.reference
  ∀ s : State,
    (∃ p : Bank 9 NUM,
      exec .e4Reset s = .next (({ s with e4 := { regs := { s.e4.regs with seed := Nat.iterate cfg.rngStep 9 s.e4.regs.seed }
                                                 ph := p } } : State).respond 0#32 0#32) ∧
      ∀ i < 9, bankGet p i = (cfg.rngOut (Nat.iterate cfg.rngStep (i + 1) s.e4.regs.seed)).ftz) ∧
    (∃ p d : Bank 16 NUM,
      exec .e8Reset s =
        .next (({ s with e8 := { regs := { s.e8.regs with seed := Nat.iterate cfg.rngStep 32 s.e8.regs.seed }
                                 ph := p, det := d } } : State).respond 0#32 0#32) ∧
      ∀ j < 16,
        bankGet d j = (NUM.one.add (cfg.addDetune.mul
          ((NUM.two.mul (cfg.rngOut (Nat.iterate cfg.rngStep (2 * j + 1) s.e8.regs.seed))).sub NUM.one))).ftz ∧
        bankGet p j = (cfg.rngOut (Nat.iterate cfg.rngStep (2 * j + 2) s.e8.regs.seed)).ftz)

/-! ## PRODUCE, engine by engine

Every phase update is rounded, as in the model (DESIGN CHOICE, log 28). -/

/-- R194, with the output stage of R164 to R166 written out. The phase update is rounded at every sample, so the closed
form the rule gives for sample n is not claimed (DESIGN CHOICE, log 28). At `freq = sr/2` R195 says that the sine is 0: the
sine of the rounded `2·PI` is not (DESIGN CHOICE, log 44), and a phase other than 0 and 0.5 gives other values, as the
pseudocode writes it (DESIGN CHOICE, log 46). -/
def Obligations.SineEngineProduces : Prop :=
  let cfg := Config.reference
  ∀ s : State,
    let r := s.e0.regs
    let dt := inc cfg r.freq r.sr
    let th := (NUM.two.mul cfg.pi).mul s.e0.ph
    let x := ((cfg.sin (th.add ((r.morph.mul cfg.sinePm).mul (cfg.sin th)))).add
      ((r.harm.mul cfg.sineH2).mul (cfg.sin (NUM.two.mul th)))).add
      ((r.timb.mul cfg.sineH3).mul (cfg.sin ((NUM.ofNat 3).mul th)))
    let x' := x.div ((NUM.one.add (r.harm.mul cfg.sineH2)).add (r.timb.mul cfg.sineH3))
    let seed := cfg.rngStep r.seed
    let n := cfg.noiseAmp.mul ((NUM.two.mul (cfg.rngOut seed)).sub NUM.one)
    let y := (r.level.mul (cfg.engineGain 0)).mul (cfg.tanh (x'.add n))
    exec .e0Produce s =
      .next (({ s with e0 := { regs := { r with seed := seed }, ph := (s.e0.ph.add dt).wrap1.ftz } }
        : State).respond y.bits y.bits)

/-- R204, with the operators rounding as in the model: `blsquare` overshoots where `p + 1` rounds, in the rule's own example
too (DESIGN CHOICE, log 26), and at `freq = 0` the sine of the held phase is cross-faded in as the pseudocode writes it, where
R205 says that the output settles to the noise floor (DESIGN CHOICE, log 36). The sum leaks at every sample, so R204's
triangle of peak 1 is not claimed (DESIGN CHOICE, log 52), nor that `bright` is its input at `harm = 1` (log 42). -/
def Obligations.TriangleEngineProduces : Prop :=
  let cfg := Config.reference
  ∀ s : State,
    let r := s.e1.regs
    let dt := inc cfg r.freq r.sr
    let t := s.e1.integ.lerp (cfg.sin ((NUM.two.mul cfg.pi).mul s.e1.ph)) r.morph
    let b := bright cfg r s.e1.lp t
    let x := (NUM.one.add r.timb).mul b
    let integ := ((NUM.one.sub cfg.triLeak).mul s.e1.integ).add
      (((NUM.ofNat 4).mul dt).mul (blsquare cfg (s.e1.ph.add (NUM.ofRat 25 100)).wrap1 dt))
    let out := outstage cfg 1 r x x
    exec .e1Produce s =
      .next (({ s with e1 := { regs := out.2, ph := (s.e1.ph.add dt).wrap1.ftz, integ := integ.ftz, lp := b } }
        : State).respond out.1.r.bits out.1.l.bits)

/-- R214. The model's choices: at `freq = sr/2` the sine of the phase is cross-faded in as the pseudocode writes it, and a
phase other than 0 and 0.5 alternates between values that are not small, where R215 says that the output is small (DESIGN
CHOICE, log 46); `blpulse` overshoots where `p + 1` rounds (DESIGN CHOICE, log 26) and `bright` rounds (DESIGN CHOICE,
log 42). -/
def Obligations.SquareEngineProduces : Prop :=
  let cfg := Config.reference
  ∀ s : State,
    let r := s.e2.regs
    let dt := inc cfg r.freq r.sr
    let pw := (NUM.ofRat 5 10).add (cfg.sqPwSpan.mul r.timb)
    let v := (blpulse cfg s.e2.ph dt pw).sub ((NUM.two.mul pw).sub NUM.one)
    let x := bright cfg r s.e2.lp (v.lerp (cfg.sin ((NUM.two.mul cfg.pi).mul s.e2.ph)) r.morph)
    let out := outstage cfg 2 r x x
    exec .e2Produce s =
      .next (({ s with e2 := { regs := out.2, ph := (s.e2.ph.add dt).wrap1.ftz, lp := x } }
        : State).respond out.1.r.bits out.1.l.bits)

/-- R224. The model's choices: at `freq = 0` with `timb > 0` or `morph > 0` the square and the sine of the held phase are
cross-faded in as R224's pseudocode writes it, where R225 says that the output settles to `SAT(2·ph - 1)` (DESIGN CHOICE,
log 41); `blsquare` overshoots where `p + 1` rounds (DESIGN CHOICE, log 26) and `bright` rounds (DESIGN CHOICE, log 42). -/
def Obligations.SawEngineProduces : Prop :=
  let cfg := Config.reference
  ∀ s : State,
    let r := s.e3.regs
    let dt := inc cfg r.freq r.sr
    let v := (blsaw cfg s.e3.ph dt).lerp (blsquare cfg s.e3.ph dt) r.timb
    let x := bright cfg r s.e3.lp (v.lerp (cfg.sin ((NUM.two.mul cfg.pi).mul s.e3.ph)) r.morph)
    let out := outstage cfg 3 r x x
    exec .e3Produce s =
      .next (({ s with e3 := { regs := out.2, ph := (s.e3.ph.add dt).wrap1.ftz, lp := x } }
        : State).respond out.1.r.bits out.1.l.bits)

/-- R234: nine saws, each advancing by its own increment, summed in order into the two channels. Every phase update is
rounded, so that phases with one increment keep their offsets for ever, as R235 says, is not claimed (DESIGN CHOICE, log 28). -/
def Obligations.SupersawEngineProduces : Prop :=
  let cfg := Config.reference
  ∀ s : State,
    let r := s.e4.regs
    let side := cfg.ssSideMin.add ((NUM.one.sub cfg.ssSideMin).mul r.timb)
    let dt := fun i => inc cfg (r.freq.mul (NUM.one.add (((tableAt cfg.ssDet i).mul cfg.ssDetuneMax).mul r.harm))) r.sr
    let saw := fun i => let p := bankGet s.e4.ph i
      (blsaw cfg p (dt i)).lerp (cfg.sin ((NUM.two.mul cfg.pi).mul p)) r.morph
    let g := fun i => if i = 4 then NUM.one else side
    let termL := fun i => ((g i).mul (NUM.one.sub (tableAt cfg.ssPan i))).mul (saw i)
    let termR := fun i => ((g i).mul (tableAt cfg.ssPan i)).mul (saw i)
    let xL := (List.range 9).foldl (fun acc i => acc.add (termL i)) NUM.zero
    let xR := (List.range 9).foldl (fun acc i => acc.add (termR i)) NUM.zero
    let out := outstage cfg 4 r (xL.div cfg.ssNorm) (xR.div cfg.ssNorm)
    ∃ p : Bank 9 NUM,
      exec .e4Produce s =
        .next (({ s with e4 := { regs := out.2, ph := p } } : State).respond out.1.r.bits out.1.l.bits) ∧
      ∀ i < 9, bankGet p i = ((bankGet s.e4.ph i).add (dt i)).wrap1.ftz

/-- R245. The model's choices: at `harm = 0` each oscillator goes on from its own phase, where R246 says that the two run in
phase (DESIGN CHOICE, log 46), and `blsquare` overshoots where `p + 1` rounds (DESIGN CHOICE, log 26). -/
def Obligations.VirtualAnalogEngineProduces : Prop :=
  let cfg := Config.reference
  ∀ s : State,
    let r := s.e5.regs
    let x := r.harm.mul (NUM.ofNat 4)
    let i := min x.floor 3
    let semi := (tableAt cfg.vaInt i.toNat).lerp (tableAt cfg.vaInt (i.toNat + 1)) (x.sub (NUM.ofInt i))
    let fB := r.freq.mul (cfg.pow NUM.two (semi.div (NUM.ofNat 12)))
    let dtA := inc cfg r.freq r.sr
    let dtB := inc cfg fB r.sr
    let a := (blsaw cfg s.e5.phA dtA).lerp (blsquare cfg s.e5.phA dtA) r.timb
    let b := (blsaw cfg s.e5.phB dtB).lerp (blsquare cfg s.e5.phB dtB) r.morph
    let out := outstage cfg 5 r a b
    exec .e5Produce s =
      .next (({ s with e5 := { regs := out.2, phA := (s.e5.phA.add dtA).wrap1.ftz
                               phB := (s.e5.phB.add dtB).wrap1.ftz } } : State).respond out.1.r.bits out.1.l.bits)

/-- R284, with `FM_DECAY` and each product rounded, so the closed form the rule gives for the envelope of sample n is not
claimed (DESIGN CHOICE, log 29). -/
def Obligations.FmEngineProduces : Prop :=
  let cfg := Config.reference
  ∀ s : State,
    let r := s.e6.regs
    let env := if s.e6.cnt = 0 then NUM.one else (s.e6.env.mul cfg.fmDecay).ftz
    let ratio := cfg.fmRatioMin.add (r.harm.mul (cfg.fmRatioMax.sub cfg.fmRatioMin))
    let dtC := inc cfg r.freq r.sr
    let dtM := inc cfg (r.freq.mul ratio) r.sr
    let m := cfg.sin (((NUM.two.mul cfg.pi).mul s.e6.phM).add ((r.timb.mul cfg.fmFbMax).mul s.e6.fbz))
    let c := cfg.sin (((NUM.two.mul cfg.pi).mul s.e6.phC).add (((r.morph.mul cfg.fmIndexMax).mul env).mul m))
    let out := outstage cfg 6 r c c
    exec .e6Produce s =
      .next (({ s with e6 := { regs := out.2, phC := (s.e6.phC.add dtC).wrap1.ftz, phM := (s.e6.phM.add dtM).wrap1.ftz
                               fbz := m.ftz, env := env, cnt := (s.e6.cnt + 1) % Config.fmPeriod } }
        : State).respond out.1.r.bits out.1.l.bits)

/-- R296, with the resonator of R295 written out: three resonators in parallel, each with its own two states. Each operation is
rounded as in the model: that the denominator exceeds 1 at every sample rate (R295) and that the bands decay to 0 at
`freq = 0` (R297) is not claimed (DESIGN CHOICE, logs 37 and 38), and `blpulse` overshoots where `p + 1` rounds (DESIGN
CHOICE, log 26). -/
def Obligations.FormantEngineProduces : Prop :=
  let cfg := Config.reference
  ∀ s : State,
    let r := s.e7.regs
    let dt := inc cfg r.freq r.sr
    let pulse := (blpulse cfg s.e7.ph dt cfg.formantPw).sub ((NUM.two.mul cfg.formantPw).sub NUM.one)
    let src := pulse.lerp (blsaw cfg s.e7.ph dt) r.morph
    let x := (NUM.ofNat 4).mul r.timb
    let i := min x.floor 3
    let fr := x.sub (NUM.ofInt i)
    let k := NUM.one.div (cfg.formantQMin.add (r.harm.mul (cfg.formantQMax.sub cfg.formantQMin)))
    let F := fun j => ((tableAt2 cfg.vowel i.toNat j).lerp (tableAt2 cfg.vowel (i.toNat + 1) j) fr).min
      (cfg.formantFMax.mul r.sr)
    let A := fun j => (tableAt2 cfg.formantAmp i.toNat j).lerp (tableAt2 cfg.formantAmp (i.toNat + 1) j) fr
    let g := fun j => cfg.tan ((cfg.pi.mul (F j)).div r.sr)
    let a1 := fun j => NUM.one.div (NUM.one.add ((g j).mul ((g j).add k)))
    let a2 := fun j => (g j).mul (a1 j)
    let a3 := fun j => (g j).mul (a2 j)
    let v3 := fun j => src.sub (bankGet s.e7.ic2 j)
    let v1 := fun j => ((a1 j).mul (bankGet s.e7.ic1 j)).add ((a2 j).mul (v3 j))
    let v2 := fun j => ((bankGet s.e7.ic2 j).add ((a2 j).mul (bankGet s.e7.ic1 j))).add ((a3 j).mul (v3 j))
    let y := (List.range 3).foldl (fun acc j => acc.add ((A j).mul (k.mul (v1 j)))) NUM.zero
    let out := outstage cfg 7 r y y
    ∃ p q : Bank 3 NUM,
      exec .e7Produce s =
        .next (({ s with e7 := { regs := out.2, ph := (s.e7.ph.add dt).wrap1.ftz, ic1 := p, ic2 := q } }
          : State).respond out.1.r.bits out.1.l.bits) ∧
      ∀ j < 3, bankGet p j = ((NUM.two.mul (v1 j)).sub (bankGet s.e7.ic1 j)).ftz ∧
        bankGet q j = ((NUM.two.mul (v2 j)).sub (bankGet s.e7.ic2 j)).ftz

/-- R254: word `j` of a bank is that of partial `j + 1`. Every partial below the count adds to the normaliser, only one
below half the sample rate sounds, and all sixteen phases advance. At `freq = 0` the phases held are summed, where R255 names
the drawn ones (DESIGN CHOICE, log 46); `norm` is at least 1 in this configuration (R254; for another POW see log 45). -/
def Obligations.AdditiveEngineProduces : Prop :=
  let cfg := Config.reference
  ∀ s : State,
    let r := s.e8.regs
    let N := ((Config.addNMin : Int) + (r.harm.mul (NUM.ofNat (Config.addNMax - Config.addNMin))).round).toNat
    let f := fun j => ((NUM.ofNat (j + 1)).mul r.freq).mul (bankGet s.e8.det j)
    let a0 := fun j => cfg.pow (NUM.ofNat (j + 1)) (NUM.one.add (cfg.addSlope.mul r.timb)).neg
    let a := fun j => if (j + 1) % 2 = 0 then (a0 j).mul (NUM.one.sub r.morph) else a0 j
    let norm := (List.range N).foldl (fun acc j => acc.add (a j)) NUM.zero
    let x := (List.range N).foldl (fun acc j => if (f j).lt (r.sr.div NUM.two)
      then acc.add ((a j).mul (cfg.sin ((NUM.two.mul cfg.pi).mul (bankGet s.e8.ph j)))) else acc) NUM.zero
    let out := outstage cfg 8 r (x.div norm) (x.div norm)
    ∃ p : Bank 16 NUM,
      exec .e8Produce s =
        .next (({ s with e8 := { regs := out.2, ph := p, det := s.e8.det } } : State).respond
          out.1.r.bits out.1.l.bits) ∧
      ∀ j < 16, bankGet p j = ((bankGet s.e8.ph j).add (inc cfg (f j) r.sr)).wrap1.ftz

/-- R265: four voices, each at its interpolated interval and its own detune. `blsquare` overshoots where `p + 1` rounds
(DESIGN CHOICE, log 26). -/
def Obligations.ChordEngineProduces : Prop :=
  let cfg := Config.reference
  ∀ s : State,
    let r := s.e9.regs
    let x := r.harm.mul (NUM.ofNat 7)
    let i := min x.floor 6
    let fr := x.sub (NUM.ofInt i)
    let semi := fun v => (tableAt2 cfg.chordTab i.toNat v).lerp (tableAt2 cfg.chordTab (i.toNat + 1) v) fr
    let f := fun v => (r.freq.mul (cfg.pow NUM.two ((semi v).div (NUM.ofNat 12)))).mul
      (NUM.one.add (tableAt cfg.chordDet v))
    let dt := fun v => inc cfg (f v) r.sr
    let voice := fun v => let p := bankGet s.e9.ph v
      ((blsaw cfg p (dt v)).lerp (blsquare cfg p (dt v)) r.timb).lerp (cfg.sin ((NUM.two.mul cfg.pi).mul p)) r.morph
    let acc := (((NUM.zero.add (voice 0)).add (voice 1)).add (voice 2)).add (voice 3)
    let out := outstage cfg 9 r (acc.div (NUM.ofNat 4)) (acc.div (NUM.ofNat 4))
    ∃ p : Bank 4 NUM,
      exec .e9Produce s =
        .next (({ s with e9 := { regs := out.2, ph := p } } : State).respond out.1.r.bits out.1.l.bits) ∧
      ∀ v < 4, bankGet p v = ((bankGet s.e9.ph v).add (dt v)).wrap1.ftz

/-- R316, with the excitation of R315 and the line length of R313 written out: the four taps are read before the two
writes, the cursor and the strike counter advance, and two draws are made. -/
def Obligations.StringEngineProduces : Prop :=
  let cfg := Config.reference
  ∀ s : State,
    let r := s.e10.regs
    let w : Int := s.e10.w
    let len := fun (f : NUM) => if (f.mul (NUM.ofNat 2048)).le r.sr then 2048
      else (min (max (r.sr.div f).round 8) 2048).toNat
    let lenA := len r.freq
    let lenB := len (r.freq.mul (NUM.one.add cfg.strDetune))
    let seed := cfg.rngStep r.seed
    let n1 := (NUM.two.mul (cfg.rngOut seed)).sub NUM.one
    let bow := (s.e10.bow.add (cfg.strBowA.mul (n1.sub s.e10.bow))).ftz
    let strike := if s.e10.excnt = 0 then NUM.one else NUM.zero
    let pluck := cfg.strExc.mul n1
    let bowx := (cfg.strExc.mul cfg.strBowGain).mul bow
    let exc := if r.morph.le (NUM.ofRat 5 10) then pluck.lerp bowx (NUM.two.mul r.morph)
      else bowx.lerp strike ((NUM.two.mul r.morph).sub NUM.one)
    let pos := cfg.strPosMin.add (((NUM.ofRat 5 10).sub cfg.strPosMin).mul r.timb)
    let pA := max 1 (pos.mul (NUM.ofNat lenA)).round
    let pB := max 1 (pos.mul (NUM.ofNat lenB)).round
    let dA := memRead cfg.strCap s.e10.bufA (w - lenA)
    let dB := memRead cfg.strCap s.e10.bufB (w - lenB)
    let tA := memRead cfg.strCap s.e10.bufA (w - (lenA - pA))
    let tB := memRead cfg.strCap s.e10.bufB (w - (lenB - pB))
    let a := cfg.strDampMin.add (cfg.strDampSpan.mul r.harm)
    let lpA := (s.e10.lpA.add (a.mul (dA.sub s.e10.lpA))).ftz
    let lpB := (s.e10.lpB.add (a.mul (dB.sub s.e10.lpB))).ftz
    let oB := tB.sub dB
    let yB := (cfg.strApG.neg.mul oB).add s.e10.apz
    let out := outstage cfg 10 { r with seed := seed } (tA.sub dA) yB
    exec .e10Produce s =
      .next (({ s with e10 := {
          regs := out.2
          bufA := memWrite cfg.strCap s.e10.bufA w (exc.add (cfg.strFb.mul lpA))
          bufB := memWrite cfg.strCap s.e10.bufB w (exc.add (cfg.strFb.mul lpB))
          w := (s.e10.w + 1) % cfg.strCap
          lpA := lpA
          lpB := lpB
          apz := (oB.add (cfg.strApG.mul yB)).ftz
          bow := bow
          excnt := (s.e10.excnt + 1) % cfg.strStrikePeriod } } : State).respond out.1.r.bits out.1.l.bits)

/-- R335, with the drift of R334: two targets are drawn when the counter is 0, and each channel drifts on its own. The
wrapped phase of the pulse is rounded (DESIGN CHOICE, log 30), and the drift moves it at `freq = 0` too, where R336 says
that the pulse is constant (DESIGN CHOICE, log 34); `blpulse` overshoots where `p + 1` rounds (DESIGN CHOICE, log 26). -/
def Obligations.PulseWidthEngineProduces : Prop :=
  let cfg := Config.reference
  ∀ s : State,
    let r := s.e11.regs
    let seed1 := cfg.rngStep r.seed
    let seed2 := cfg.rngStep seed1
    let fresh := s.e11.dcnt = 0
    let seed := if fresh then seed2 else r.seed
    let target0 := if fresh then ((NUM.two.mul (cfg.rngOut seed1)).sub NUM.one).ftz else s.e11.ch.l.target
    let target1 := if fresh then ((NUM.two.mul (cfg.rngOut seed2)).sub NUM.one).ftz else s.e11.ch.r.target
    let depth := cfg.pwmDriftPw.mul (cfg.pwmDepthMin.add ((NUM.one.sub cfg.pwmDepthMin).mul r.morph))
    let drift := fun (c : PwmChannel NUM) (target : NUM) => (c.drift.add (cfg.pwmDriftSlew.mul (target.sub c.drift))).ftz
    let pulse := fun (c : PwmChannel NUM) (target dt : NUM) =>
      let d := drift c target
      blpulse cfg (c.ph.add (cfg.pwmDriftPh.mul d)).wrap1 dt
        ((((NUM.ofRat 5 10).add (cfg.pwmPwSpan.mul r.timb)).add (depth.mul d)).clamp (NUM.ofRat 5 100)
          (NUM.ofRat 95 100))
    let y := fun (c : PwmChannel NUM) (target dt : NUM) =>
      ((pulse c target dt).sub c.dcx).add (cfg.pwmDcR.mul c.dcy)
    let next := fun (c : PwmChannel NUM) (target dt : NUM) =>
      ({ ph := (c.ph.add dt).wrap1.ftz, drift := drift c target, target := target, dcx := (pulse c target dt).ftz
         dcy := (y c target dt).ftz } : PwmChannel NUM)
    let dt0 := inc cfg r.freq r.sr
    let dt1 := inc cfg (r.freq.mul (NUM.one.add (r.harm.mul cfg.pwmSpread))) r.sr
    let out := outstage cfg 11 { r with seed := seed } (y s.e11.ch.l target0 dt0) (y s.e11.ch.r target1 dt1)
    exec .e11Produce s =
      .next (({ s with e11 := {
          regs := out.2
          ch := ⟨next s.e11.ch.l target0 dt0, next s.e11.ch.r target1 dt1⟩
          dcnt := (s.e11.dcnt + 1) % cfg.pwmDriftPeriod } } : State).respond out.1.r.bits out.1.l.bits)

/-- R169, R166, R165, R171: both samples `E<k>.PRODUCE` returns are at most the engine's level in magnitude, in every
state whose level is in its range; a sample computed from a NaN in the engine's state is excepted (log 6), and none is a
NaN where the engine's registers are legal, its phases in [0, 1) and its other words at most 2^32 in magnitude. The rule's
strict bound becomes `<=` because `TANH` rounds to 1 (R553 (c)); `ENGINE_GAIN` is 1 there (log 1). The last clause is the
rule's bound `level · ENGINE_GAIN[k] <= 1.5` in every configuration within the bounds of the rules, whatever its number
format (R7). -/
def Obligations.EngineOutputNeverExceedsItsLevel : Prop :=
  (∀ (k : Engine) (s : State), (s.regs k).level.inUnit = true →
    ∃ (t : State) (L R : NUM), exec k.opProduce s = .next t ∧ t.responses = s.responses ++ [wordPair R.bits L.bits] ∧
      (L.isNaN = true ∨ L.abs.le (s.regs k).level = true) ∧ (R.isNaN = true ∨ R.abs.le (s.regs k).level = true) ∧
      (s.engineTame k = true → L.isNaN = false ∧ R.isNaN = false)) ∧
  ∀ (N : Type) [DecidableEq N] (cfg : Config.Parameters N) (k : Nat) (r : EngineRegs N) (x : N), cfg.Admissible →
    k < 12 → cfg.le cfg.zero r.level = true → cfg.le r.level cfg.one = true →
    cfg.isNaN (cfg.add x (r.noise cfg)) = false →
    cfg.le (cfg.abs (outLevel cfg k r x)) (cfg.mul r.level (cfg.engineGain k)) = true ∧
    cfg.le (cfg.abs (outLevel cfg k r x)) (cfg.ofRat 3 2) = true

/-! ## Envelopes and LFO -/

/-- R352 to R357, R359, R367 to R370, R372. -/
def Obligations.EnvelopeControlsAndGates : Prop :=
  let cfg := Config.reference
  ∀ (v : Data) (s : State),
    let time := ((numOf v).san NUM.zero cfg.envTMax).ftz
    exec (.adsrSetAttack v) s = .next (({ s with adsr := { s.adsr with a := time } } : State).respond 0#32 0#32) ∧
    exec (.adsrSetDecay v) s = .next (({ s with adsr := { s.adsr with d := time } } : State).respond 0#32 0#32) ∧
    exec (.adsrSetSustain v) s =
      .next (({ s with adsr := { s.adsr with s := ((numOf v).san NUM.zero NUM.one).ftz } } : State).respond 0#32 0#32) ∧
    exec (.adsrSetRelease v) s = .next (({ s with adsr := { s.adsr with r := time } } : State).respond 0#32 0#32) ∧
    exec .adsrGateOn s = .next (({ s with adsr := { s.adsr with st := .attack } } : State).respond 0#32 0#32) ∧
    exec .adsrGateOff s = .next (({ s with adsr := { s.adsr with st := .release } } : State).respond 0#32 0#32) ∧
    exec .adsrReset s =
      .next (({ s with adsr := { s.adsr with st := .idle, level := NUM.zero } } : State).respond 0#32 0#32) ∧
    exec (.adSetAttack v) s = .next (({ s with ad := { s.ad with a := time } } : State).respond 0#32 0#32) ∧
    exec (.adSetDecay v) s = .next (({ s with ad := { s.ad with d := time } } : State).respond 0#32 0#32) ∧
    exec .adGateOn s = .next (({ s with ad := { s.ad with st := .attack } } : State).respond 0#32 0#32) ∧
    exec .adGateOff s =
      .next (({ s with ad := { s.ad with st := .idle, level := NUM.zero } } : State).respond 0#32 0#32) ∧
    exec .adReset s = .next (({ s with ad := { s.ad with st := .idle, level := NUM.zero } } : State).respond 0#32 0#32)

/-- R358 and R371: one sample period of each envelope, stage by stage, at most one transition a call. The statement says
nothing of a stage's length, which the rounding of each call decides (DESIGN CHOICE, log 24). -/
def Obligations.EnvelopeProcessByStage : Prop :=
  ∀ s : State,
    let rate := fun (sr t num : NUM) => if t.le Config.reference.envTMin then NUM.one else num.div (t.mul sr)
    let u := s.adsr
    let up := (u.level.add (rate u.sr u.a NUM.one)).ftz
    let down := (u.level.sub (rate u.sr u.d (NUM.one.sub u.s))).ftz
    let fall := (u.level.sub (rate u.sr u.r u.s)).ftz
    let p : AdsrStage × NUM := match u.st with
      | .idle => (.idle, NUM.zero)
      | .attack => if NUM.one.le up then (.decay, NUM.one) else (.attack, up)
      | .decay => if down.le u.s then (.sustain, u.s.ftz) else (.decay, down)
      | .sustain => (.sustain, u.s.ftz)
      | .release => if fall.le NUM.zero then (.idle, NUM.zero) else (.release, fall)
    let l := (p.2.clamp NUM.zero NUM.one).ftz
    let v := s.ad
    let rise := (v.level.add (rate v.sr v.a NUM.one)).ftz
    let sink := (v.level.sub (rate v.sr v.d NUM.one)).ftz
    let q : AdStage × NUM := match v.st with
      | .idle => (.idle, NUM.zero)
      | .attack => if NUM.one.le rise then (.decay, NUM.one) else (.attack, rise)
      | .decay => if sink.le NUM.zero then (.idle, NUM.zero) else (.decay, sink)
    let m := (q.2.clamp NUM.zero NUM.one).ftz
    exec .adsrProcess s = .next (({ s with adsr := { u with st := p.1, level := l } } : State).respond 0#32 l.bits) ∧
    exec .adProcess s = .next (({ s with ad := { v with st := q.1, level := m } } : State).respond 0#32 m.bits)

/-- R360: in sustain, any number of `ADSR.PROCESS` commands each return the sustain level and leave the stage. -/
def Obligations.SustainLevelHolds : Prop :=
  ∀ (s : State) (n : Nat) (rest : List CommandWord),
    s.adsr.st = .sustain → s.adsr.s.inUnit = true → s.adsr.s.flushed = true →
    s.cmds = List.replicate n (encode .adsrProcess) ++ rest →
    steps n s = .next { s with
      adsr := { s.adsr with level := if n = 0 then s.adsr.level else s.adsr.s }
      cmds := rest
      responses := s.responses ++ List.replicate n (wordPair 0#32 s.adsr.s.bits) }

/-- R37: the status bits change only by the operations the rule's table lists, and by the PIPE operations that issue
those and the full reset. -/
def Obligations.StatusBitsChangeOnlyByTheirWriters : Prop :=
  ∀ (M : BitVec 32) (i : Instr) (s t : State), withinMaxFrames (Config.referenceAt M) i → exec i s = .next t →
    (writesAdsrStage i = false → t.adsr.st = s.adsr.st) ∧
    (writesAdStage i = false → t.ad.st = s.ad.st) ∧
    (writesGate i = false → t.pipe.gate = s.pipe.gate) ∧
    (writesHasNote i = false → t.pipe.hasNote = s.pipe.hasNote) ∧
    (writesWasSilent i = false → t.pipe.wasSilent = s.pipe.wasSilent)

/-- R30, R60: no unit's operation writes a field of another unit; only the pipeline reaches the other units. Of the
operations of PIPE, `PROCESS_BLOCK` among them, nothing is said. -/
def Obligations.UnitsOwnTheirState : Prop :=
  ∀ (i : Instr) (s t : State), exec i s = .next t →
    (mayTouch 0x00#8 i = false → t.e0 = s.e0) ∧ (mayTouch 0x01#8 i = false → t.e1 = s.e1) ∧
    (mayTouch 0x02#8 i = false → t.e2 = s.e2) ∧ (mayTouch 0x03#8 i = false → t.e3 = s.e3) ∧
    (mayTouch 0x04#8 i = false → t.e4 = s.e4) ∧ (mayTouch 0x05#8 i = false → t.e5 = s.e5) ∧
    (mayTouch 0x06#8 i = false → t.e6 = s.e6) ∧ (mayTouch 0x07#8 i = false → t.e7 = s.e7) ∧
    (mayTouch 0x08#8 i = false → t.e8 = s.e8) ∧ (mayTouch 0x09#8 i = false → t.e9 = s.e9) ∧
    (mayTouch 0x0A#8 i = false → t.e10 = s.e10) ∧ (mayTouch 0x0B#8 i = false → t.e11 = s.e11) ∧
    (mayTouch 0x10#8 i = false → t.adsr = s.adsr) ∧ (mayTouch 0x11#8 i = false → t.ad = s.ad) ∧
    (mayTouch 0x12#8 i = false → t.lfo = s.lfo) ∧ (mayTouch 0x18#8 i = false → t.flt = s.flt) ∧
    (mayTouch 0x20#8 i = false → t.dly = s.dly) ∧ (mayTouch 0x21#8 i = false → t.cho = s.cho) ∧
    (mayTouch 0x22#8 i = false → t.rev = s.rev) ∧ (mayTouch 0x3F#8 i = false → t.pipe = s.pipe)

/-- R383, R385, R386, R387. -/
def Obligations.LfoControls : Prop :=
  ∀ (v : Data) (s : State),
    let code := (min (max (((numOf v).san NUM.zero (NUM.ofNat 4)).round) 0) 4).toNat
    exec .lfoReset s =
      .next (({ s with lfo := { s.lfo with ph := NUM.zero, rnd := NUM.zero } } : State).respond 0#32 0#32) ∧
    exec (.lfoSetFreq v) s =
      .next (({ s with lfo := { s.lfo with freq := ((numOf v).san NUM.zero (s.lfo.sr.div NUM.two)).ftz } }
        : State).respond 0#32 0#32) ∧
    (∃ w : LfoWave, w.code = code ∧
      exec (.lfoSetWave v) s = .next (({ s with lfo := { s.lfo with wave := w } } : State).respond 0#32 0#32)) ∧
    exec (.lfoSetVar v) s =
      .next (({ s with lfo := { s.lfo with variation := ((numOf v).san NUM.zero NUM.one).ftz } }
        : State).respond 0#32 0#32)

/-- R384: the value of the phase held, then the advance; a wrap redraws the held random value whatever the waveform. The
phase additions are rounded (DESIGN CHOICE, log 31). -/
def Obligations.LfoProcessByWaveform : Prop :=
  let cfg := Config.reference
  ∀ s : State,
    let u := s.lfo
    let p := u.ph
    let p4 := (NUM.ofNat 4).mul p
    let N : Int := 2 + (u.variation.mul (NUM.ofNat 14)).round
    let k := min (p.mul (NUM.ofInt N)).floor (N - 1)
    let y := match u.wave with
      | .sine => cfg.sin ((NUM.two.mul cfg.pi).mul p)
      | .triangle => if p.lt (NUM.ofRat 25 100) then p4 else if p.lt (NUM.ofRat 75 100) then NUM.two.sub p4
          else p4.sub (NUM.ofNat 4)
      | .square => if p.lt (NUM.ofRat 5 10) then NUM.one else NUM.one.neg
      | .stepped => NUM.one.neg.add ((NUM.ofInt (2 * k)).div (NUM.ofInt (N - 1)))
      | .steppedRandom => u.rnd
    let p2 := p.add (inc cfg u.freq u.sr)
    let seed := cfg.rngStep u.seed
    exec .lfoProcess s =
      .next (({ s with lfo := { u with
          ph := p2.wrap1.ftz
          seed := if NUM.one.le p2 then seed else u.seed
          rnd := if NUM.one.le p2 then ((NUM.two.mul (cfg.rngOut seed)).sub NUM.one).ftz else u.rnd } }
        : State).respond 0#32 y.bits)

/-- R384: "the generator's state does not depend on the waveform history": two LFOs that differ in the waveform alone
have the same phase, held value and seed after any number of `LFO.PROCESS` commands, with the waveform set anew in each
at any time. -/
def Obligations.LfoGeneratorIgnoresTheWaveform : Prop :=
  ∀ (vs vs' : List Data) (s s' : State), vs.length = vs'.length → { s'.lfo with wave := s.lfo.wave } = s.lfo →
    s.cmds = vs.flatMap (fun v => [encode (.lfoSetWave v), encode .lfoProcess]) →
    s'.cmds = vs'.flatMap (fun v => [encode (.lfoSetWave v), encode .lfoProcess]) →
    ∃ t t' : State, steps (2 * vs.length) s = .next t ∧ steps (2 * vs.length) s' = .next t' ∧
      t'.lfo.ph = t.lfo.ph ∧ t'.lfo.rnd = t.lfo.rnd ∧ t'.lfo.seed = t.lfo.seed

/-! ## Filter and effects -/

/-- R405, R406, R407, R409. -/
def Obligations.FilterControls : Prop :=
  let cfg := Config.reference
  ∀ (v : Data) (s : State),
    exec (.fltSetCutoff v) s =
      .next (({ s with flt := { s.flt with
          fc := ((numOf v).san cfg.fcMin (cfg.fcMaxRatio.mul s.flt.sr)).ftz } } : State).respond 0#32 0#32) ∧
    exec (.fltSetRes v) s =
      .next (({ s with flt := { s.flt with res := ((numOf v).san NUM.zero cfg.resMax).ftz } }
        : State).respond 0#32 0#32) ∧
    exec (.fltSetWet v) s =
      .next (({ s with flt := { s.flt with wet := ((numOf v).san NUM.zero NUM.one).ftz } } : State).respond 0#32 0#32) ∧
    exec .fltReset s =
      .next (({ s with flt := { s.flt with s := ⟨Bank.fill 4 NUM.zero, Bank.fill 4 NUM.zero⟩ } }
        : State).respond 0#32 0#32)

/-- R408, with the coefficients of R403 and the output stage of R412: one sample of one channel. Each operation rounds, so
the DC gain of R410 is not claimed (DESIGN CHOICE, log 35), and the coefficients are not claimed to be finite at rates where
`PI·fc/sr` overflows (DESIGN CHOICE, log 33). -/
def Obligations.FilterProcessesOneSample : Prop :=
  let cfg := Config.reference
  ∀ (c : Idx) (v : Data) (s : State),
    let u := s.flt
    let x := (numOf v).san cfg.sigMax.neg cfg.sigMax
    let g := cfg.tan ((cfg.pi.mul u.fc).div u.sr)
    let G := g.div (NUM.one.add g)
    let k := cfg.resScale.mul u.res
    let ch := if c.getLsbD 0 then u.s.r else u.s.l
    let s0 := bankGet ch 0
    let s1 := bankGet ch 1
    let s2 := bankGet ch 2
    let s3 := bankGet ch 3
    let S := ((((((G.mul G).mul G).mul s0).add ((G.mul G).mul s1)).add (G.mul s2)).add s3).div (NUM.one.add g)
    let y0 := (x.sub (k.mul S)).div (NUM.one.add ((((k.mul G).mul G).mul G).mul G))
    let t1 := (y0.sub s0).mul G
    let y1 := t1.add s0
    let t2 := (y1.sub s1).mul G
    let y2 := t2.add s1
    let t3 := (y2.sub s2).mul G
    let y3 := t3.add s2
    let t4 := (y3.sub s3).mul G
    let y4 := t4.add s3
    let w := if cfg.fxSat then cfg.tanh y4 else y4
    let y := ((NUM.one.sub u.wet).mul x).add (u.wet.mul w)
    ∃ ch' : Bank 4 NUM,
      ch'.words = [(y1.add t1).ftz, (y2.add t2).ftz, (y3.add t3).ftz, (y4.add t4).ftz] ∧
      exec (.fltProcess c v) s =
        .next (({ s with flt := { u with s := if c.getLsbD 0 then ⟨u.s.l, ch'⟩ else ⟨ch', u.s.r⟩ } }
          : State).respond 0#32 y.bits)

/-- R411 (a), R427, R449, R468: with the wet or the amount at zero the filter, the delay, the chorus and the reverb
return the sample they were given, in every state; a return computed from a NaN in the unit's state is excepted
(log 6), and there is none where the unit's registers and cursor are in their ranges and its words at most 2^32 in
magnitude. Equality is of values: a returned zero may have either sign. -/
def Obligations.DryUnitReturnsItsInput : Prop :=
  let cfg := Config.reference
  ∀ (c : Idx) (v : Data) (s : State),
    let x := (numOf v).san cfg.sigMax.neg cfg.sigMax
    let right := c.getLsbD 0
    let dry := fun (i : Instr) (tame : Bool) => ∃ (t : State) (y : NUM), exec i s = .next t ∧
      t.responses = s.responses ++ [wordPair 0#32 y.bits] ∧ (y.isNaN = true ∨ y.key = x.key) ∧
      (tame = true → y.isNaN = false)
    (s.flt.wet.key = 0 → dry (.fltProcess c v) (s.flt.tame cfg)) ∧
    (s.dly.amount.key = 0 → dry (.dlyProcess c v) (if right then s.dly.ch.r.tame else s.dly.ch.l.tame)) ∧
    (s.cho.amount.key = 0 → dry (.choProcess c v) (if right then s.cho.ch.r.tame cfg else s.cho.ch.l.tame cfg)) ∧
    (s.rev.amount.key = 0 → dry (.revProcess c v) (if right then s.rev.ch.r.tame else s.rev.ch.l.tame))

/-- R423, R426, R443, R448, R463, R467. -/
def Obligations.EffectAmountsAndResets : Prop :=
  ∀ (v : Data) (s : State),
    let a := ((numOf v).san NUM.zero NUM.one).ftz
    let phi : Bank 3 NUM := ⟨Config.reference.choPhase0, rfl⟩
    let line : Line NUM := ⟨[], 0⟩
    let rev : ReverbChannel NUM := ⟨line, line, line, line, line, line⟩
    exec (.dlySetAmount v) s = .next (({ s with dly := { s.dly with amount := a } } : State).respond 0#32 0#32) ∧
    exec (.choSetAmount v) s = .next (({ s with cho := { s.cho with amount := a } } : State).respond 0#32 0#32) ∧
    exec (.revSetAmount v) s = .next (({ s with rev := { s.rev with amount := a } } : State).respond 0#32 0#32) ∧
    exec .dlyReset s =
      .next (({ s with dly := { s.dly with ch := ⟨⟨[], 0, NUM.zero⟩, ⟨[], 0, NUM.zero⟩⟩ } } : State).respond 0#32 0#32) ∧
    exec .choReset s = .next (({ s with cho := { s.cho with ch := ⟨⟨[], 0, phi⟩, ⟨[], 0, phi⟩⟩ } } : State).respond 0#32 0#32) ∧
    exec .revReset s = .next (({ s with rev := { s.rev with ch := ⟨rev, rev⟩ } } : State).respond 0#32 0#32)

/-- R425, with `dlen` of R424: the tap is read before the write, the low-pass, the feedback, the mix. -/
def Obligations.DelayProcessesOneSample : Prop :=
  let cfg := Config.reference
  ∀ (c : Idx) (v : Data) (s : State),
    let u := s.dly
    let x := (numOf v).san cfg.sigMax.neg cfg.sigMax
    let a := u.amount
    let d := min (max (((cfg.dlyTMin.add ((cfg.dlyTMax.sub cfg.dlyTMin).mul a)).mul cfg.sr).round) 1)
      ((cfg.dlyCap : Int) - 1)
    let ch := if c.getLsbD 0 then u.ch.r else u.ch.l
    let r := memRead cfg.dlyCap ch.buf ((ch.w : Int) - d)
    let lp := (ch.lp.add (cfg.dlyDamp.mul (r.sub ch.lp))).ftz
    let fb := cfg.dlyFbMin.add ((cfg.dlyFbMax.sub cfg.dlyFbMin).mul a)
    let ch' : DelayChannel NUM :=
      ⟨memWrite cfg.dlyCap ch.buf ch.w (x.add (fb.mul lp)), (ch.w + 1) % cfg.dlyCap, lp⟩
    let wet := if cfg.fxSat then cfg.tanh lp else lp
    let y := ((NUM.one.sub a).mul x).add (a.mul wet)
    exec (.dlyProcess c v) s =
      .next (({ s with dly := { u with ch := if c.getLsbD 0 then ⟨u.ch.l, ch'⟩ else ⟨ch', u.ch.r⟩ } }
        : State).respond 0#32 y.bits)

/-- R82 to R84, R425, R447, R464 to R466, R316: every circular buffer of the block. In one in canonical form an operation
writes one word, at the cursor: that word reads the value the rule gives, flushed, and every other word reads as before.
The buffer of each channel of DLY takes `x + fb·lp` with the low-pass state just stored, that of CHO the input; the six
lines of a channel of REV take `x + fb·y` in a comb and `t + REV_AP_G·d` in an allpass, and the two lines of E10
`exc + STR_FB·lp`. The other channel's buffers are unchanged. -/
def Obligations.DelayWritesOneWord : Prop :=
  let cfg := Config.reference
  ∀ (c : Idx) (v : Data) (s : State),
    let x := (numOf v).san cfg.sigMax.neg cfg.sigMax
    let right := c.getLsbD 0
    let wrote := fun (cap : Nat) (old new : Memory NUM) (w : Nat) (value : NUM) => Memory.wf cap old = true →
      Memory.wf cap new = true ∧ ∀ j : Int, memRead cap new j =
        if j % (cap : Int) = (w : Int) % (cap : Int) then value.ftz else memRead cap old j
    (∃ t : State, exec (.dlyProcess c v) s = .next t ∧
      let fb := cfg.dlyFbMin.add ((cfg.dlyFbMax.sub cfg.dlyFbMin).mul s.dly.amount)
      let old := if right then s.dly.ch.r else s.dly.ch.l
      let new := if right then t.dly.ch.r else t.dly.ch.l
      wrote cfg.dlyCap old.buf new.buf old.w (x.add (fb.mul new.lp)) ∧
      (if right then t.dly.ch.l = s.dly.ch.l else t.dly.ch.r = s.dly.ch.r)) ∧
    (∃ t : State, exec (.choProcess c v) s = .next t ∧
      let old := if right then s.cho.ch.r else s.cho.ch.l
      let new := if right then t.cho.ch.r else t.cho.ch.l
      wrote cfg.choCap old.buf new.buf old.w x ∧
      (if right then t.cho.ch.l = s.cho.ch.l else t.cho.ch.r = s.cho.ch.r)) ∧
    (∃ t : State, exec (.revProcess c v) s = .next t ∧
      let fb := cfg.revFbBase.add (cfg.revFbSpan.mul s.rev.amount)
      let old := if right then s.rev.ch.r else s.rev.ch.l
      let new := if right then t.rev.ch.r else t.rev.ch.l
      let cl := fun j => (if right then cfg.revCombLenR else cfg.revCombLenL).getD j 1
      let al := fun j => (if right then cfg.revApLenR else cfg.revApLenL).getD j 1
      let out := fun (l : Line NUM) (len : Nat) => memRead len l.buf l.idx
      let comb := fun (o n : Line NUM) (len : Nat) => wrote len o.buf n.buf o.idx (x.add (fb.mul (out o len)))
      let vn := fun (l : Line NUM) (len : Nat) (u : NUM) => u.add (cfg.revApG.mul (out l len))
      let allpass := fun (o n : Line NUM) (len : Nat) (u : NUM) => wrote len o.buf n.buf o.idx (vn o len u)
      let t0 := cfg.revCombMix.mul ((((NUM.zero.add (out old.comb0 (cl 0))).add (out old.comb1 (cl 1))).add
        (out old.comb2 (cl 2))).add (out old.comb3 (cl 3)))
      let t1 := (out old.ap0 (al 0)).sub (cfg.revApG.mul (vn old.ap0 (al 0) t0))
      comb old.comb0 new.comb0 (cl 0) ∧ comb old.comb1 new.comb1 (cl 1) ∧ comb old.comb2 new.comb2 (cl 2) ∧
      comb old.comb3 new.comb3 (cl 3) ∧ allpass old.ap0 new.ap0 (al 0) t0 ∧ allpass old.ap1 new.ap1 (al 1) t1 ∧
      (if right then t.rev.ch.l = s.rev.ch.l else t.rev.ch.r = s.rev.ch.r)) ∧
    (∃ t : State, exec .e10Produce s = .next t ∧
      let draws := fun _ => cfg.rngOut (cfg.rngStep s.e10.regs.seed)
      wrote cfg.strCap s.e10.bufA t.e10.bufA s.e10.w ((s.e10.excitation cfg draws).add (cfg.strFb.mul t.e10.lpA)) ∧
      wrote cfg.strCap s.e10.bufB t.e10.bufB s.e10.w ((s.e10.excitation cfg draws).add (cfg.strFb.mul t.e10.lpB)))

/-- R447, with the voice oscillators of R444, the delay of R445 and the fractional read of R446: three reads before the
write, three phases advanced, the voices averaged. For a read position just below 0 the statement says the model's choice
(DESIGN CHOICE, log 25): the remainder `q` rounds to `CHO_CAP`, and the words at 0 and 1 are read where R446 reads the
word at `CHO_CAP - 1`. That each phase addition is rounded is the model's choice too (DESIGN CHOICE, log 27); the least
delay that R449 gives is not claimed (DESIGN CHOICE, log 43). -/
def Obligations.ChorusProcessesOneSample : Prop :=
  let cfg := Config.reference
  ∀ (c : Idx) (v : Data) (s : State),
    let u := s.cho
    let x := (numOf v).san cfg.sigMax.neg cfg.sigMax
    let a := u.amount
    let rate := cfg.choRateMin.add ((cfg.choRateMax.sub cfg.choRateMin).mul a)
    let depth := cfg.choDepthMin.add ((cfg.choDepthMax.sub cfg.choDepthMin).mul a)
    let ch := if c.getLsbD 0 then u.ch.r else u.ch.l
    let cap : Int := cfg.choCap
    let q := fun (pos : NUM) => pos.sub (NUM.ofInt (cap * (pos.div (NUM.ofInt cap)).floor))
    let i0 := fun (pos : NUM) => (q pos).floor
    let read := fun (pos : NUM) => if i0 pos = cap - 1 then memRead cfg.choCap ch.buf (i0 pos)
      else (memRead cfg.choCap ch.buf (i0 pos)).lerp (memRead cfg.choCap ch.buf (i0 pos + 1))
        ((q pos).sub (NUM.ofInt (i0 pos)))
    let voice := fun j => read ((NUM.ofNat ch.w).sub
      ((cfg.choBase.add (depth.mul (cfg.sin (bankGet ch.phi j)))).mul cfg.sr))
    let acc := ((NUM.zero.add (voice 0)).add (voice 1)).add (voice 2)
    let mean := acc.div (NUM.ofNat 3)
    let wet := if cfg.fxSat then cfg.tanh mean else mean
    let y := ((NUM.one.sub a).mul x).add (a.mul wet)
    let turn := NUM.two.mul cfg.pi
    let p := fun j => (bankGet ch.phi j).add ((turn.mul rate).div cfg.sr)
    let next := fun phi => (⟨memWrite cfg.choCap ch.buf ch.w x, (ch.w + 1) % cfg.choCap, phi⟩ : ChorusChannel NUM)
    ∃ phi : Bank 3 NUM,
      (∀ j < 3, bankGet phi j = (if turn.le (p j) then (p j).sub turn else p j).ftz) ∧
      exec (.choProcess c v) s =
        .next (({ s with cho := { u with ch := if c.getLsbD 0 then ⟨u.ch.l, next phi⟩ else ⟨next phi, u.ch.r⟩ } }
          : State).respond 0#32 y.bits)

/-- R466, with the comb of R464 and the allpass of R465: four combs in parallel, two allpasses in series, the mix. -/
def Obligations.ReverbProcessesOneSample : Prop :=
  let cfg := Config.reference
  ∀ (c : Idx) (v : Data) (s : State),
    let u := s.rev
    let right := c.getLsbD 0
    let x := (numOf v).san cfg.sigMax.neg cfg.sigMax
    let a := u.amount
    let fb := cfg.revFbBase.add (cfg.revFbSpan.mul a)
    let ch := if right then u.ch.r else u.ch.l
    let cl := fun j => (if right then cfg.revCombLenR else cfg.revCombLenL).getD j 1
    let al := fun j => (if right then cfg.revApLenR else cfg.revApLenL).getD j 1
    let out := fun (l : Line NUM) (len : Nat) => memRead len l.buf l.idx
    let put := fun (l : Line NUM) (len : Nat) (w : NUM) => (⟨memWrite len l.buf l.idx w, (l.idx + 1) % len⟩ : Line NUM)
    let comb := fun (l : Line NUM) (len : Nat) => put l len (x.add (fb.mul (out l len)))
    let vn := fun (l : Line NUM) (len : Nat) (t : NUM) => t.add (cfg.revApG.mul (out l len))
    let acc := (((NUM.zero.add (out ch.comb0 (cl 0))).add (out ch.comb1 (cl 1))).add (out ch.comb2 (cl 2))).add
      (out ch.comb3 (cl 3))
    let t0 := cfg.revCombMix.mul acc
    let t1 := (out ch.ap0 (al 0)).sub (cfg.revApG.mul (vn ch.ap0 (al 0) t0))
    let t2 := (out ch.ap1 (al 1)).sub (cfg.revApG.mul (vn ch.ap1 (al 1) t1))
    let wet := if cfg.fxSat then cfg.tanh t2 else t2
    let y := ((NUM.one.sub a).mul x).add (a.mul wet)
    let ch' : ReverbChannel NUM :=
      ⟨comb ch.comb0 (cl 0), comb ch.comb1 (cl 1), comb ch.comb2 (cl 2), comb ch.comb3 (cl 3),
       put ch.ap0 (al 0) (vn ch.ap0 (al 0) t0), put ch.ap1 (al 1) (vn ch.ap1 (al 1) t1)⟩
    exec (.revProcess c v) s =
      .next (({ s with rev := { u with ch := if right then ⟨u.ch.l, ch'⟩ else ⟨ch', u.ch.r⟩ } }
        : State).respond 0#32 y.bits)

/-! ## Pipeline -/

/-- R485, R486: a parameter register is written as given and read as it stands; an index above 18 writes nothing and
reads +0.0. That a denormal is stored unflushed is the model's reading of R485 against R12 (DEDUCED, log 9). -/
def Obligations.ParameterAccess : Prop :=
  ∀ (i : Idx) (v : Data) (s : State),
    (i.toNat ≤ 18 → ∃ p : Bank 19 NUM, p.words = s.pipe.p.words.set i.toNat ⟨v⟩ ∧
      exec (.pipeParamSet i v) s = .next (({ s with pipe := { s.pipe with p := p } } : State).respond 0#32 0#32)) ∧
    (18 < i.toNat → exec (.pipeParamSet i v) s = .next (s.respond 0#32 0#32)) ∧
    exec (.pipeParamGet i) s =
      .next (s.respond 0#32 (if i.toNat ≤ 18 then (s.pipe.p.words.getD i.toNat NUM.zero).bits else 0#32))

/-- R96, R485, R486: a `PARAM_SET` of one register followed by a `PARAM_GET`: the register written reads as the word
given, any other reads as before. That a denormal reads back as given is the model's reading (DEDUCED, log 9). -/
def Obligations.ParameterGetSeesTheLastSet : Prop :=
  ∀ (i j : Idx) (v : Data) (s : State) (rest : List CommandWord), i.toNat ≤ 18 → j.toNat ≤ 18 →
    s.cmds = encode (.pipeParamSet i v) :: encode (.pipeParamGet j) :: rest →
    ∃ t : State, steps 2 s = .next t ∧ t.cmds = rest ∧
      t.responses = s.responses ++ [0#64, wordPair 0#32 (if i = j then v else (bankGet s.pipe.p j.toNat).bits)]

/-- R32, R117, R489: the parameter registers are written by `PARAM_SET` alone, and frames are emitted by `PROCESS_BLOCK`
alone. -/
def Obligations.OnlyTheHostWritesParameters : Prop :=
  ∀ (M : BitVec 32) (i : Instr) (s t : State), withinMaxFrames (Config.referenceAt M) i → exec i s = .next t →
    (isParamSet i = false → t.pipe.p = s.pipe.p) ∧ (isProcessBlock i = false → t.audio = s.audio)

/-- R487, R488, R493, R494: the two note events. -/
def Obligations.NoteEvents : Prop :=
  let cfg := Config.reference
  ∀ (note : Idx) (vel : Data) (s : State),
    let n := note.extractLsb' 0 7
    let f := cfg.a4Hz.mul
      (cfg.pow NUM.two ((NUM.ofInt ((n.toNat : Int) - (Config.a4Note : Int))).div (NUM.ofNat 12)))
    let on : State := { s with
      pipe := { s.pipe with heldNote := n, noteFreq := f.ftz, gate := true, hasNote := true }
      adsr := { s.adsr with st := .attack }
      ad := { s.ad with st := .attack } }
    let on' := if cfg.resetOnNoteOn then on.resetEngine cfg (sel cfg (bankGet s.pipe.p 0)) else on
    let off : State := if s.pipe.gate = true ∧ n = s.pipe.heldNote
      then { s with
        pipe := { s.pipe with gate := false }
        adsr := { s.adsr with st := .release }
        ad := { s.ad with st := .idle, level := NUM.zero } }
      else s
    exec (.pipeNoteOn note vel) s = .next ((if vel.extractLsb' 0 7 = 0#7 then off else on').respond 0#32 0#32) ∧
    exec (.pipeNoteOff note) s = .next (off.respond 0#32 0#32)

/-- R484, R511 (a): a note-on for note 69 selects 440 Hz exactly and one for note 81 selects 880 Hz exactly, in every
state and for every velocity above 0. -/
def Obligations.ConcertPitchIsExact : Prop :=
  ∀ (vel : Data) (s : State), vel.extractLsb' 0 7 ≠ 0#7 →
    ∃ t u : State, exec (.pipeNoteOn 69#16 vel) s = .next t ∧ t.pipe.noteFreq = ⟨0x43DC0000#32⟩ ∧
      exec (.pipeNoteOn 81#16 vel) s = .next u ∧ u.pipe.noteFreq = ⟨0x445C0000#32⟩

/-- R503, the selector: NaN and everything below 0.5 select engine 0, everything from 11.5 up the last engine, and in
between the nearest index, halves upward. -/
def Obligations.SelectorRoundsToTheNearestEngine : Prop :=
  let cfg := Config.reference
  (∀ v : NUM, v.isNaN = true → sel cfg v = .sine) ∧
  (∀ v : NUM, v.lt (NUM.ofRat 1 2) = true → sel cfg v = .sine) ∧
  (∀ v : NUM, (NUM.ofRat 23 2).le v = true → sel cfg v = .pwm) ∧
  (∀ (k : Engine) (v : NUM), k ≠ .sine → (NUM.ofRat (2 * (k.index : Int) - 1) 2).le v = true →
    v.lt (NUM.ofRat (2 * (k.index : Int) + 1) 2) = true → sel cfg v = k)

/-- R490, R491, and R496 for `n = 0`: the block latches the nineteen sanitised parameters, issues the fifteen unit
operations from them and emits no frame. `PL` is stored flushed (log 11). -/
def Obligations.EmptyBlockLatchesAndPrograms : Prop :=
  let cfg := Config.reference
  ∀ s : State,
    let P := fun i => bankGet s.pipe.p i
    let unit := fun i => ((P i).san NUM.zero NUM.one).ftz
    let time := fun i => ((P i).san NUM.zero cfg.envTMax).ftz
    let hz := fun i => ((P i).san NUM.zero (cfg.sr.div NUM.two)).ftz
    let pl : Latch NUM :=
      { sel := sel cfg (P 0), harm := unit 1, timb := unit 2, morph := unit 3, freq := hz 4, level := unit 5
        attack := time 6, decay := time 7, sustain := unit 8, release := time 9, lfoFreq := hz 10
        lfoWave := waveOf cfg (P 11), lfoVar := unit 12, reverb := unit 13, delay := unit 14, chorus := unit 15
        cutoff := ((P 16).san cfg.fcMin (cfg.fcMaxRatio.mul cfg.sr)).ftz
        resonance := unit 17, wet := unit 18 }
    exec (.pipeProcessBlock 0#32) s =
      .next (({ s with
        pipe := { s.pipe with pl := pl }
        adsr := (((s.adsr.setAttack cfg pl.attack).setDecay cfg pl.decay).setSustain cfg pl.sustain).setRelease cfg pl.release
        ad := (s.ad.setAttack cfg pl.attack).setDecay cfg pl.decay
        lfo := ((s.lfo.setFreq cfg pl.lfoFreq).setWave cfg (NUM.ofNat pl.lfoWave.code)).setVar cfg pl.lfoVar
        flt := ((s.flt.setCutoff cfg pl.cutoff).setRes cfg pl.resonance).setWet cfg pl.wet
        rev := s.rev.setAmount cfg pl.reverb
        dly := s.dly.setAmount cfg pl.delay
        cho := s.cho.setAmount cfg pl.chorus } : State).respond 0#32 0#32)

/-- R500 to R508: a block of one frame. `s` is a state whose block has been latched and programmed (R490, R491) by
`State.startBlock`; the seven steps follow in order. The gain is R504's, each operator rounding; that its LFO factor stays
within 1.2 and the frame below it (R504, R498) is not claimed (DESIGN CHOICE, log 40). The frequency is R502's; that `env`
is 0 before any note, as the rule remarks, is not claimed (DESIGN CHOICE, log 49). -/
def Obligations.OneFrameRunsTheSevenSteps : Prop :=
  let cfg := Config.reference
  ∀ (M : BitVec 32) (s0 : State), countOf 1#32 ≤ M.toNat →
    let s := s0.startBlock cfg
    -- step 1
    let adsr := s.adsr.process cfg
    let ad := s.ad.process cfg
    let env := adsr.level
    let lfo := s.lfo.value cfg
    let s1 : State :=
      { s with adsr := adsr, ad := ad, lfo := s.lfo.process cfg, pipe := { s.pipe with adLevel := ad.level.ftz } }
    -- steps 2 and 3
    let f := if s.pipe.hasNote then s.pipe.noteFreq else s.pipe.pl.freq
    let k := s.pipe.pl.sel
    let s2 : State := if BitVec.ofNat 4 k.index ≠ s.pipe.selPrev ∧ cfg.resetOnSelect = true then s1.resetEngine cfg k else s1
    let s3 : State := { s2 with pipe := { s2.pipe with selPrev := BitVec.ofNat 4 k.index } }
    let s4 := s3.programEngine cfg f s.pipe.pl.harm s.pipe.pl.timb s.pipe.pl.morph k
    let y := s4.engineOut cfg k
    let s5 := s4.engineAdvance cfg k
    -- step 4
    let gsc := (env.mul s.pipe.pl.level).mul (NUM.one.add (cfg.lfoAmDepth.mul lfo))
    let x : Stereo NUM := ⟨gsc.mul y.l, gsc.mul y.r⟩
    let silent := env.lt cfg.silenceThresh
    let edge := s.pipe.wasSilent && !silent
    let dly := if edge then s5.dly.reset cfg else s5.dly
    let cho := if edge then s5.cho.reset cfg else s5.cho
    -- steps 5 to 7, the left channel first
    let xf : Stereo NUM := ⟨s5.flt.output cfg .left x.l, (s5.flt.process cfg .left x.l).output cfg .right x.r⟩
    let xd : Stereo NUM := ⟨dly.output cfg .left xf.l, (dly.process cfg .left xf.l).output cfg .right xf.r⟩
    let xc : Stereo NUM := ⟨cho.output cfg .left xd.l, (cho.process cfg .left xd.l).output cfg .right xd.r⟩
    let xr : Stereo NUM := ⟨s5.rev.output cfg .left xc.l, (s5.rev.process cfg .left xc.l).output cfg .right xc.r⟩
    exec (.pipeProcessBlock 1#32) s0 =
      .next (({ s5 with
        flt := (s5.flt.process cfg .left x.l).process cfg .right x.r
        dly := (dly.process cfg .left xf.l).process cfg .right xf.r
        cho := (cho.process cfg .left xd.l).process cfg .right xd.r
        rev := (s5.rev.process cfg .left xc.l).process cfg .right xc.r
        pipe := { s5.pipe with wasSilent := silent }
        audio := s5.audio ++ [wordPair xr.r.bits xr.l.bits] } : State).respond 0#32 0#32)

/-- R496, R117, R582: a block of `n` frames completes, emits exactly `n` frames, returns `RW = 0`, and leaves the
parameters, the note state, every sample rate and every engine's level as they were. -/
def Obligations.BlockEmitsExactlyItsFrames : Prop :=
  ∀ (M : BitVec 32) (n : Data) (s : State), countOf n ≤ M.toNat →
    ∃ (t : State) (frames : List Frame), exec (.pipeProcessBlock n) s = .next t ∧ frames.length = n.toNat ∧
      t.audio = s.audio ++ frames ∧ t.responses = s.responses ++ [0#64] ∧ t.cmds = s.cmds ∧
      t.pipe.p = s.pipe.p ∧ t.pipe.heldNote = s.pipe.heldNote ∧ t.pipe.noteFreq = s.pipe.noteFreq ∧
      t.pipe.gate = s.pipe.gate ∧ t.pipe.hasNote = s.pipe.hasNote ∧
      (∀ k : Engine, (t.regs k).sr = (s.regs k).sr ∧ (t.regs k).level = (s.regs k).level) ∧
      t.adsr.sr = s.adsr.sr ∧ t.ad.sr = s.ad.sr ∧ t.lfo.sr = s.lfo.sr ∧ t.flt.sr = s.flt.sr

/-- R60, R503: a block with engine `k` selected neither reads nor writes engine `j`, for every other `j`: with all of
engine `j` replaced beforehand, the same frames and the same state follow, but for engine `j`, which is as replaced. -/
def Obligations.UnselectedEngineDoesNotMatter : Prop :=
  let cfg := Config.reference
  ∀ (M : BitVec 32) (n : Data) (s src t : State) (j : Engine), countOf n ≤ M.toNat →
    sel cfg (bankGet s.pipe.p 0) ≠ j →
    exec (.pipeProcessBlock n) s = .next t →
    exec (.pipeProcessBlock n) (s.copyEngine j src) = .next (t.copyEngine j src)

/-- R499: `PROCESS_BLOCK a` followed directly by `PROCESS_BLOCK b` emits the same `a + b` frames and leaves the same
state as `PROCESS_BLOCK (a+b)`, the response words of the two commands apart. -/
def Obligations.BlockBoundariesAreInvisible : Prop :=
  ∀ (M : BitVec 32) (a b : Data) (s : State), a.toNat + b.toNat < 2 ^ 32 → countOf (a + b) ≤ M.toNat →
    ∃ t u v : State, exec (.pipeProcessBlock a) s = .next t ∧ exec (.pipeProcessBlock b) t = .next u ∧
      exec (.pipeProcessBlock (a + b)) s = .next v ∧ u = { v with responses := s.responses ++ [0#64, 0#64] }

/-- R507, R511 (b): on the sample where the voice goes from silent to active the delay and the chorus are cleared before
they run, so that afterwards every word of their four buffers but the first reads +0.0 and every cursor is at 1; on a
sample without that edge every cursor advances by one. -/
def Obligations.SilenceToActiveEdgeClearsDelayAndChorus : Prop :=
  let cfg := Config.reference
  ∀ (M : BitVec 32) (s : State), countOf 1#32 ≤ M.toNat →
    let env := ((s.startBlock cfg).adsr.process cfg).level
    let edge := s.pipe.wasSilent && !env.lt cfg.silenceThresh
    ∃ t : State, exec (.pipeProcessBlock 1#32) s = .next t ∧ t.pipe.wasSilent = env.lt cfg.silenceThresh ∧
      (edge = true →
        t.dly.ch.l.w = 1 ∧ t.dly.ch.r.w = 1 ∧ t.cho.ch.l.w = 1 ∧ t.cho.ch.r.w = 1 ∧
        (∀ j : Nat, 1 ≤ j → j < cfg.dlyCap →
          memRead cfg.dlyCap t.dly.ch.l.buf j = NUM.zero ∧ memRead cfg.dlyCap t.dly.ch.r.buf j = NUM.zero) ∧
        (∀ j : Nat, 1 ≤ j → j < cfg.choCap →
          memRead cfg.choCap t.cho.ch.l.buf j = NUM.zero ∧ memRead cfg.choCap t.cho.ch.r.buf j = NUM.zero)) ∧
      (edge = false →
        t.dly.ch.l.w = (s.dly.ch.l.w + 1) % cfg.dlyCap ∧ t.dly.ch.r.w = (s.dly.ch.r.w + 1) % cfg.dlyCap ∧
        t.cho.ch.l.w = (s.cho.ch.l.w + 1) % cfg.choCap ∧ t.cho.ch.r.w = (s.cho.ch.r.w + 1) % cfg.choCap)

/-! ## Reset and invariants -/

/-- R570, R489: a full reset writes every field to its value after power-on, except the parameter registers and the
ports. What it leaves in `PL`, which no rule reads before it is rewritten, is not said here (log 11). -/
def Obligations.FullResetRestoresPowerOn : Prop :=
  ∀ s : State, ∃ pl : Latch NUM,
    exec .pipeFullReset s =
      .next (({ State.reset with
        pipe := { State.reset.pipe with p := s.pipe.p, pl := pl }
        cmds := s.cmds
        responses := s.responses
        audio := s.audio } : State).respond 0#32 0#32)

/-- R571, R38, R35, R43, R47, R51 to R54: the values after power-on that are not zero: every sample rate, the levels, the
seeds before and after the drawing resets and the phases and detunes those drew, the cutoff, the chorus phases, and the
flags. Seeds, rate, cutoff and generator are the spec's defaults (logs 1, 17). -/
def Obligations.PowerOnValues : Prop :=
  let cfg := Config.reference
  (∀ k : Engine, (State.reset.regs k).sr = NUM.ofNat 48000 ∧ (State.reset.regs k).level = NUM.one ∧
    (State.reset.regs k).freq = NUM.zero ∧ (State.reset.regs k).harm = NUM.zero) ∧
  State.reset.adsr.sr = NUM.ofNat 48000 ∧ State.reset.ad.sr = NUM.ofNat 48000 ∧ State.reset.lfo.sr = NUM.ofNat 48000 ∧
  State.reset.flt.sr = NUM.ofNat 48000 ∧
  (∀ k : Engine, k ≠ .supersaw → k ≠ .additive → (State.reset.regs k).seed = BitVec.ofNat 32 (0x5EED0000 + k.index)) ∧
  State.reset.e4.regs.seed = 0xCC135D9B#32 ∧ State.reset.e8.regs.seed = 0x50C980A8#32 ∧
  (∀ i < 9, bankGet State.reset.e4.ph i = (cfg.rngOut (Nat.iterate cfg.rngStep (i + 1) 0x5EED0004#32)).ftz) ∧
  (∀ j < 16,
    bankGet State.reset.e8.det j = (NUM.one.add (cfg.addDetune.mul
      ((NUM.two.mul (cfg.rngOut (Nat.iterate cfg.rngStep (2 * j + 1) 0x5EED0008#32))).sub NUM.one))).ftz ∧
    bankGet State.reset.e8.ph j = (cfg.rngOut (Nat.iterate cfg.rngStep (2 * j + 2) 0x5EED0008#32)).ftz) ∧
  State.reset.lfo.seed = 0x5EED00FF#32 ∧ State.reset.adsr.st = .idle ∧ State.reset.adsr.level = NUM.zero ∧
  State.reset.flt.fc = NUM.ofNat 20 ∧ State.reset.cho.ch.l.phi.words = [NUM.zero, NUM.ofRat 21 10, NUM.ofRat 42 10] ∧
  State.reset.cho.ch.r = State.reset.cho.ch.l ∧ State.reset.dly.ch.l = ⟨[], 0, NUM.zero⟩ ∧
  State.reset.pipe.wasSilent = true ∧ State.reset.pipe.selPrev = 15#4 ∧ State.reset.pipe.gate = false ∧
  State.reset.pipe.hasNote = false ∧ State.reset.pipe.heldNote = 0#7

/-- The properties the statements below keep hold at power-on; the shape in every configuration within the bounds of the
rules, whatever its number format (R7, R89). -/
def Obligations.InvariantsHoldAtPowerOn : Prop :=
  State.reset.wellShaped Config.reference = true ∧ State.reset.flushed = true ∧ State.reset.legal = true ∧
  State.reset.tuned = true ∧
  ∀ (N : Type) [DecidableEq N] (cfg : Config.Parameters N), cfg.Admissible → (State.Of.powerOn cfg).wellShaped cfg = true

/-- R59, R84, R548, R34, R35: every step keeps the buffers canonical, the cursors below their capacities, the counters
below their periods and the note state consistent. The second clause says the same of a block of up to `MAX_FRAMES`
frames, the third of every step, in every configuration within the bounds of the rules, whatever its number format,
capacities, periods, line lengths, `MAX_FRAMES` and engine bodies (R7, R89, R172). -/
def Obligations.EveryStepKeepsTheShape : Prop :=
  (∀ (M : BitVec 32) (s t : State), s.withinPromise (Config.referenceAt M) → s.wellShaped Config.reference = true →
    step s = .next t → t.wellShaped Config.reference = true) ∧
  (∀ (N : Type) [DecidableEq N] (cfg : Config.Parameters N) (n : Nat) (s : State.Of N), cfg.Admissible →
    n ≤ cfg.maxFrames.toNat → s.wellShaped cfg = true →
    (State.Of.runFrames cfg n (s.startBlock cfg)).wellShaped cfg = true) ∧
  ∀ (N : Type) [DecidableEq N] (cfg : Config.Parameters N) (s t : State.Of N), cfg.Admissible → s.withinPromise cfg →
    s.wellShaped cfg = true → stepIn cfg s = .next t → t.wellShaped cfg = true

/-- R12, R170: every step keeps every field and every buffer word free of denormals, but for the parameter registers
`P[0..18]`, which `PARAM_SET` writes as given (the model's reading, log 9). The latched copy `PL` is stored flushed
(log 11) and is among the fields. A returned sample or an emitted frame is no field and is not flushed (DESIGN CHOICE,
log 50). -/
def Obligations.EveryStepKeepsTheStateFlushed : Prop :=
  ∀ (M : BitVec 32) (s t : State), s.withinPromise (Config.referenceAt M) → s.flushed = true → step s = .next t → t.flushed = true

/-- R38 to R57, R59: every step keeps the control registers, the phases, the levels and the drifts in their ranges. Of the
ranges that depend on a unit's sample rate this clause says less: a frequency stays non-negative and finite, and the
cutoff at most the larger of `FC_MIN` and `FC_MAX_RATIO·sr`, because R405 stores `FC_MIN` for a NaN whatever the rate is.
The second clause gives those ranges in full (R38, R53, R54): frequencies at most `sr/2` and the cutoff in
`FC_MIN` .. `FC_MAX_RATIO·sr`, kept by every step whose command is no `SET_SR`, which keeps the frequency (R153, R382). -/
def Obligations.EveryStepKeepsRegistersLegal : Prop :=
  (∀ (M : BitVec 32) (s t : State), s.withinPromise (Config.referenceAt M) → s.legal = true → step s = .next t →
    t.legal = true) ∧
  ∀ (M : BitVec 32) (s t : State), s.withinPromise (Config.referenceAt M) → s.keepsRates → s.legal = true →
    s.tuned = true → step s = .next t → t.tuned = true
end

