-- ==== Sys2Proof/Laws/Num.lean ====
section
/-! SUPPORT. What the operations of `NUM` can give: the parts of a word, the order, rounding, and the bounds that the
primitives of R10, R12, R13 and R163 keep. -/

namespace Sys2Proof

/-! ## The parts of a word -/

theorem NUM.mag_lt (a : NUM) : a.mag < 2 ^ 31 := Nat.mod_lt _ (by decide)

theorem NUM.ofMag_mag (neg : Bool) (m : Nat) (h : m < 2 ^ 31) : (NUM.ofMag neg m).mag = m := by
  cases neg
  · simp only [NUM.mag, NUM.ofMag, BitVec.toNat_ofNat, Bool.false_eq_true, ↓reduceIte]; omega
  · simp only [NUM.mag, NUM.ofMag, BitVec.toNat_ofNat, ↓reduceIte]; omega

theorem NUM.ofMag_sign (neg : Bool) (m : Nat) (h : m < 2 ^ 31) : (NUM.ofMag neg m).sign = neg := by
  cases neg
  · simp only [NUM.sign, NUM.ofMag, BitVec.toNat_ofNat, Bool.false_eq_true, ↓reduceIte]
    rw [Bool.eq_false_iff]; intro hc; have := Nat.le_of_ble_eq_true hc; omega
  · simp only [NUM.sign, NUM.ofMag, BitVec.toNat_ofNat, ↓reduceIte]
    exact Nat.ble_eq_true_of_le (by omega)

theorem NUM.sign_iff (a : NUM) : a.sign = true ↔ 2 ^ 31 ≤ a.bits.toNat :=
  ⟨Nat.le_of_ble_eq_true, Nat.ble_eq_true_of_le⟩

theorem NUM.ext_bits {a b : NUM} (h : a.bits.toNat = b.bits.toNat) : a = b := by
  obtain ⟨x⟩ := a; obtain ⟨y⟩ := b; exact congrArg NUM.mk (BitVec.eq_of_toNat_eq h)

/-- A word is its sign and its magnitude. -/
theorem NUM.ofMag_sign_mag (a : NUM) : NUM.ofMag a.sign a.mag = a := by
  have hb := a.bits.isLt
  apply NUM.ext_bits
  have hm : a.mag = a.bits.toNat % 2 ^ 31 := rfl
  cases h : a.sign with
  | false =>
    have : ¬ 2 ^ 31 ≤ a.bits.toNat := fun hc => by rw [(NUM.sign_iff a).2 hc] at h; cases h
    simp only [NUM.ofMag, BitVec.toNat_ofNat, Bool.false_eq_true, ↓reduceIte, hm]; omega
  | true =>
    have := (NUM.sign_iff a).1 h
    simp only [NUM.ofMag, BitVec.toNat_ofNat, ↓reduceIte, hm]; omega

theorem NUM.isFinite_iff (a : NUM) : a.isFinite = true ↔ a.mag < NUM.infMag := by
  simp [NUM.isFinite, Nat.blt_eq]

theorem NUM.isNaN_iff (a : NUM) : a.isNaN = true ↔ NUM.infMag < a.mag := by
  simp [NUM.isNaN, Nat.blt_eq]

theorem NUM.isInf_iff (a : NUM) : a.isInf = true ↔ a.mag = NUM.infMag := by
  simp [NUM.isInf]

theorem NUM.isNaN_eq_false_iff (a : NUM) : a.isNaN = false ↔ a.mag ≤ NUM.infMag := by
  rw [Bool.eq_false_iff, Ne, NUM.isNaN_iff, Nat.not_lt]

/-! ## Order -/

theorem NUM.le_iff (a b : NUM) : a.le b = true ↔ a.isNaN = false ∧ b.isNaN = false ∧ a.key ≤ b.key := by
  simp [NUM.le, and_assoc]

theorem NUM.lt_iff (a b : NUM) : a.lt b = true ↔ a.isNaN = false ∧ b.isNaN = false ∧ a.key < b.key := by
  simp [NUM.lt, and_assoc]

theorem NUM.le_trans {a b c : NUM} (h : a.le b = true) (h' : b.le c = true) : a.le c = true := by
  rw [NUM.le_iff] at *; exact ⟨h.1, h'.2.1, h.2.2.trans h'.2.2⟩

theorem NUM.le_of_lt {a b : NUM} (h : a.lt b = true) : a.le b = true := by
  rw [NUM.le_iff]; rw [NUM.lt_iff] at h; exact ⟨h.1, h.2.1, h.2.2.le⟩

/-- Two words that are not NaN are ordered one way or the other. -/
theorem NUM.lt_of_not_le {a b : NUM} (ha : a.isNaN = false) (hb : b.isNaN = false) (h : a.le b = false) :
    b.lt a = true := by
  rw [NUM.lt_iff]; rw [Bool.eq_false_iff, Ne, NUM.le_iff] at h
  refine ⟨hb, ha, ?_⟩
  by_contra hc; exact h ⟨ha, hb, by omega⟩

theorem NUM.le_self {a : NUM} (h : a.isNaN = false) : a.le a = true := by rw [NUM.le_iff]; exact ⟨h, h, le_rfl⟩

/-! ## `max`, `min`, `clamp`, `san` -/

theorem NUM.max_def (a b : NUM) : a.max b = if b.le a then a else b := rfl

theorem NUM.min_def (a b : NUM) : a.min b = if a.le b then a else b := rfl

theorem NUM.clamp_def (v lo hi : NUM) : v.clamp lo hi = (v.max lo).min hi := rfl

theorem NUM.san_def (v lo hi : NUM) : v.san lo hi = if v.isNaN then lo else v.clamp lo hi := rfl

theorem NUM.sanUnit_def (v : NUM) : v.sanUnit = v.san NUM.zero NUM.one := rfl

/-- `max(v, lo)` is at least `lo`, whatever `v` is. -/
theorem NUM.le_max (v lo : NUM) (h : lo.isNaN = false) : lo.le (v.max lo) = true := by
  rw [NUM.max_def]; split
  · assumption
  · exact NUM.le_self h

/-- `max(v, lo)` is `v` or `lo`. -/
theorem NUM.max_eq_or (v lo : NUM) : v.max lo = v ∨ v.max lo = lo := by
  rw [NUM.max_def]; split <;> simp

theorem NUM.min_eq_or (v hi : NUM) : v.min hi = v ∨ v.min hi = hi := by
  rw [NUM.min_def]; split <;> simp

theorem NUM.min_le (v hi : NUM) (h : hi.isNaN = false) : (v.min hi).le hi = true := by
  rw [NUM.min_def]; split
  · assumption
  · exact NUM.le_self h

/-- `clamp` stays between its bounds (R10). -/
theorem NUM.clamp_within (v : NUM) {lo hi : NUM} (h : lo.le hi = true) :
    lo.le (v.clamp lo hi) = true ∧ (v.clamp lo hi).le hi = true := by
  have hn := (NUM.le_iff _ _).1 h
  refine ⟨?_, NUM.min_le _ _ hn.2.1⟩
  rw [NUM.clamp_def]
  rcases NUM.min_eq_or (v.max lo) hi with e | e <;> rw [e]
  · exact NUM.le_max v lo hn.1
  · exact h

/-- A value inside the bounds is not changed by `clamp`. -/
theorem NUM.clamp_of_within {v lo hi : NUM} (h : lo.le v = true) (h' : v.le hi = true) : v.clamp lo hi = v := by
  rw [NUM.clamp_def, NUM.max_def, h, if_pos rfl, NUM.min_def, h', if_pos rfl]

/-- `san` stays between its bounds, NaN included (R10, R13). -/
theorem NUM.san_within (v : NUM) {lo hi : NUM} (h : lo.le hi = true) :
    lo.le (v.san lo hi) = true ∧ (v.san lo hi).le hi = true := by
  rw [NUM.san_def]; split
  · exact ⟨NUM.le_self ((NUM.le_iff _ _).1 h).1, h⟩
  · exact NUM.clamp_within v h

/-- A value inside the bounds is not changed by `san`. -/
theorem NUM.san_of_within {v lo hi : NUM} (h : lo.le v = true) (h' : v.le hi = true) : v.san lo hi = v := by
  rw [NUM.san_def]; rw [((NUM.le_iff _ _).1 h).2.1]; exact NUM.clamp_of_within h h'

/-! ## `ftz` -/

theorem NUM.abs_mag (v : NUM) : v.abs.mag = v.mag := NUM.ofMag_mag _ _ v.mag_lt

theorem NUM.ftz_def (v : NUM) : v.ftz = if Nat.blt v.mag NUM.denormMinMag then NUM.zero else v := by
  have hd : (NUM.ofMag false NUM.denormMinMag).isNaN = false ∧
      (NUM.ofMag false NUM.denormMinMag).key = (NUM.denormMinMag : Int) := by decide +kernel
  have hk : v.abs.key = (v.mag : Int) := by
    unfold NUM.key; rw [v.abs_mag, show v.abs.sign = false from NUM.ofMag_sign _ _ v.mag_lt]; rfl
  have hl : v.abs.lt (NUM.ofMag false NUM.denormMinMag) = Nat.blt v.mag NUM.denormMinMag := by
    rw [Bool.eq_iff_iff, NUM.lt_iff, Nat.blt_eq, NUM.isNaN_eq_false_iff, v.abs_mag, hk, hd.2]
    refine ⟨fun h => by exact_mod_cast h.2.2, fun h => ⟨?_, hd.1, by exact_mod_cast h⟩⟩
    have : NUM.denormMinMag ≤ NUM.infMag := by decide
    omega
  rw [← hl]; rfl

theorem NUM.isRate_def (v : NUM) : v.isRate = (NUM.zero.lt v.ftz && v.isFinite) := rfl

theorem NUM.ftz_zero : NUM.zero.ftz = NUM.zero := by rw [NUM.ftz_def]; split <;> rfl

/-- `ftz` gives 0 or its argument (R12). -/
theorem NUM.ftz_eq_or (v : NUM) : v.ftz = NUM.zero ∨ v.ftz = v := by rw [NUM.ftz_def]; split <;> simp

theorem NUM.ftz_ftz (v : NUM) : v.ftz.ftz = v.ftz := by
  rcases NUM.ftz_eq_or v with e | e <;> rw [e]
  · exact NUM.ftz_zero
  · exact e

/-- `ftz` keeps a bound from below by a word that is 0 or less, and one from above by a word that is 0 or more. -/
theorem NUM.le_ftz {lo v : NUM} (h0 : lo.le NUM.zero = true) (h : lo.le v = true) : lo.le v.ftz = true := by
  rcases NUM.ftz_eq_or v with e | e <;> rw [e] <;> assumption

theorem NUM.ftz_le {v hi : NUM} (h0 : NUM.zero.le hi = true) (h : v.le hi = true) : v.ftz.le hi = true := by
  rcases NUM.ftz_eq_or v with e | e <;> rw [e] <;> assumption

theorem NUM.ftz_lt {v hi : NUM} (h0 : NUM.zero.lt hi = true) (h : v.lt hi = true) : v.ftz.lt hi = true := by
  rcases NUM.ftz_eq_or v with e | e <;> rw [e] <;> assumption

/-! ## `wrap1`, `lerp`, `round` -/

theorem NUM.wrap1_def (p : NUM) : p.wrap1 =
    if NUM.zero.le (p.sub (NUM.ofInt p.floor)) && (p.sub (NUM.ofInt p.floor)).lt NUM.one then
      p.sub (NUM.ofInt p.floor) else NUM.zero := rfl

/-- A wrapped phase is in [0, 1), whatever the argument (R10, log 7). -/
theorem NUM.wrap1_inPhase (p : NUM) : NUM.zero.le p.wrap1 = true ∧ p.wrap1.lt NUM.one = true := by
  rw [NUM.wrap1_def]; split
  · rename_i h; simpa using h
  · exact ⟨by decide +kernel, by decide +kernel⟩

theorem NUM.lerp_def (a b t : NUM) : a.lerp b t = a.add (t.mul (b.sub a)) := rfl

theorem NUM.round_def (v : NUM) : v.round = (v.add (NUM.ofRat 1 2)).floor := rfl

/-! ## Rounding -/

theorem NUM.nearest_mono {n d n' d' : Nat} (hd : 0 < d) (hd' : 0 < d') (h : n * d' ≤ n' * d) :
    NUM.nearest n d ≤ NUM.nearest n' d' := by
  have e := Nat.div_add_mod n d
  have e' := Nat.div_add_mod n' d'
  have hr := Nat.mod_lt n hd
  have hr' := Nat.mod_lt n' hd'
  have hq : n / d ≤ n' / d' := by
    rw [Nat.le_div_iff_mul_le hd']
    have : n / d * d' * d ≤ n' * d := by
      calc n / d * d' * d = (n / d * d) * d' := by ring
        _ ≤ n * d' := Nat.mul_le_mul_right _ (Nat.div_mul_le_self n d)
        _ ≤ n' * d := h
    exact Nat.le_of_mul_le_mul_right this hd
  have tie : NUM.nearest n d ≤ n / d + 1 := by unfold NUM.nearest; split_ifs <;> omega
  have low : n' / d' ≤ NUM.nearest n' d' := by unfold NUM.nearest; split_ifs <;> omega
  rcases Nat.lt_or_ge (n / d) (n' / d') with hlt | hge
  · omega
  · have hqq : n / d = n' / d' := le_antisymm hq hge
    have hrr : n % d * d' ≤ n' % d' * d := by
      have h1 : (d * (n / d) + n % d) * d' ≤ (d' * (n' / d') + n' % d') * d := by rw [e, e']; exact h
      rw [hqq] at h1; nlinarith
    have up : d ≤ n % d * 2 → d' ≤ n' % d' * 2 := fun hu => by
      have : d' * d ≤ n' % d' * 2 * d := by nlinarith
      exact Nat.le_of_mul_le_mul_right this hd
    have upS : d < n % d * 2 → d' < n' % d' * 2 := fun hu => by
      have : d' * d < n' % d' * 2 * d := by nlinarith
      exact Nat.lt_of_mul_lt_mul_right this
    unfold NUM.nearest
    rw [hqq]
    split_ifs <;> omega

theorem NUM.nearest_mul (q d : Nat) (hd : 0 < d) : NUM.nearest (q * d) d = q := by
  unfold NUM.nearest
  rw [Nat.mul_mod_left, Nat.mul_div_cancel _ hd]
  split_ifs <;> omega

/-- Rounding never reverses an order. -/
theorem NUM.roundMag_mono {n d n' d' : Nat} (hd : 0 < d) (hd' : 0 < d') (h : n * d' ≤ n' * d) :
    NUM.roundMag n d ≤ NUM.roundMag n' d' := by
  have hq : n / d ≤ n' / d' := by
    rw [Nat.le_div_iff_mul_le hd']
    have : n / d * d' * d ≤ n' * d := by
      calc n / d * d' * d = (n / d * d) * d' := by ring
        _ ≤ n * d' := Nat.mul_le_mul_right _ (Nat.div_mul_le_self n d)
        _ ≤ n' * d := h
    exact Nat.le_of_mul_le_mul_right this hd
  unfold NUM.roundMag
  dsimp only
  set a := Nat.log2 (n / d) - 23 with ha
  set b := Nat.log2 (n' / d') - 23 with hb
  have hl : Nat.log2 (n / d) ≤ Nat.log2 (n' / d') := by
    rw [Nat.log2_eq_log_two, Nat.log2_eq_log_two]; exact Nat.log_mono_right hq
  have hab : a ≤ b := by omega
  have pa : 0 < d <<< a := by rw [Nat.shiftLeft_eq]; positivity
  have pb : 0 < d' <<< b := by rw [Nat.shiftLeft_eq]; positivity
  apply min_le_min_right
  rcases Nat.lt_or_ge a b with hlt | hge
  · -- the upper bound of the lower binade, the lower bound of the upper one
    have h1 : NUM.nearest n (d <<< a) ≤ 2 ^ 24 := by
      rw [← NUM.nearest_mul (2 ^ 24) 1 one_pos]
      apply NUM.nearest_mono pa one_pos
      rw [Nat.shiftLeft_eq, mul_one, mul_one]
      have hn : n / d < 2 ^ (a + 24) := by
        have := @Nat.lt_log2_self (n / d)
        calc n / d < 2 ^ ((n / d).log2 + 1) := this
          _ ≤ 2 ^ (a + 24) := Nat.pow_le_pow_right (by decide) (by omega)
      have hn2 : n < 2 ^ (a + 24) * d := by
        rw [Nat.div_lt_iff_lt_mul hd] at hn; exact hn
      calc n ≤ 2 ^ (a + 24) * d := hn2.le
        _ = 2 ^ 24 * (d * 2 ^ a) := by rw [pow_add]; ring
    have h2 : 2 ^ 23 ≤ NUM.nearest n' (d' <<< b) := by
      rw [← NUM.nearest_mul (2 ^ 23) 1 one_pos]
      apply NUM.nearest_mono one_pos pb
      rw [Nat.shiftLeft_eq, mul_one, mul_one]
      have hne : n' / d' ≠ 0 := by
        intro hc; rw [hc] at hb; simp at hb; omega
      have hn : 2 ^ (b + 23) ≤ n' / d' := by
        calc 2 ^ (b + 23) ≤ 2 ^ ((n' / d').log2) := Nat.pow_le_pow_right (by decide) (by omega)
          _ ≤ n' / d' := Nat.log2_self_le hne
      have hn2 : 2 ^ (b + 23) * d' ≤ n' := (Nat.le_div_iff_mul_le hd').1 hn
      calc 2 ^ 23 * (d' * 2 ^ b) = 2 ^ (b + 23) * d' := by rw [pow_add]; ring
        _ ≤ n' := hn2
    have : (a + 1) * 2 ^ 23 ≤ b * 2 ^ 23 := Nat.mul_le_mul_right _ hlt
    omega
  · have hEq : a = b := le_antisymm hab hge
    rw [hEq]
    apply Nat.add_le_add_left
    apply NUM.nearest_mono (by rw [← hEq]; exact pa) pb
    rw [Nat.shiftLeft_eq, Nat.shiftLeft_eq]
    calc n * (d' * 2 ^ b) = (n * d') * 2 ^ b := by ring
      _ ≤ (n' * d) * 2 ^ b := Nat.mul_le_mul_right _ h
      _ = n' * (d * 2 ^ b) := by ring

theorem NUM.roundMag_le_inf (n d : Nat) : NUM.roundMag n d ≤ NUM.infMag := by
  unfold NUM.roundMag; exact Nat.min_le_right _ _

/-- A finite word rounds to itself. -/
theorem NUM.roundMag_unitsAbs (a : NUM) (h : a.mag < NUM.infMag) : NUM.roundMag a.unitsAbs 1 = a.mag := by
  unfold NUM.roundMag NUM.unitsAbs
  dsimp only
  rw [Nat.div_one]
  split
  · rename_i h0
    have hm : a.mag < 2 ^ 23 := by omega
    have : Nat.log2 a.mag - 23 = 0 := by
      by_cases hz : a.mag = 0
      · rw [hz]; rfl
      · have := (Nat.log2_lt hz).2 hm; omega
    rw [this]
    have e : NUM.nearest a.mag (1 <<< 0) = a.mag := by
      have := NUM.nearest_mul a.mag 1 one_pos; rw [mul_one] at this; exact this
    rw [e]; simp only [Nat.zero_mul, Nat.zero_add]; omega
  · rename_i h0
    set e := a.mag / 2 ^ 23 with he
    set m := a.mag % 2 ^ 23 with hm
    have hm2 : m < 2 ^ 23 := Nat.mod_lt _ (by decide)
    have hpos : m + 2 ^ 23 ≠ 0 := by omega
    have hl : Nat.log2 ((m + 2 ^ 23) <<< (e - 1)) = 23 + (e - 1) := by
      rw [Nat.shiftLeft_eq, Nat.log2_eq_log_two]
      refine (Nat.log_eq_iff (Or.inl (by omega))).2 ⟨?_, ?_⟩
      · rw [pow_add]; exact Nat.mul_le_mul_right _ (by omega)
      · rw [show 23 + (e - 1) + 1 = 24 + (e - 1) by omega, pow_add]
        exact Nat.mul_lt_mul_of_pos_right (by omega) (by positivity)
    rw [hl]
    have hs : 23 + (e - 1) - 23 = e - 1 := by omega
    rw [hs]
    have hn : NUM.nearest ((m + 2 ^ 23) <<< (e - 1)) (1 <<< (e - 1)) = m + 2 ^ 23 := by
      rw [Nat.shiftLeft_eq, Nat.shiftLeft_eq, one_mul]
      exact NUM.nearest_mul _ _ (by positivity)
    rw [hn]
    have h1 : (e - 1) * 2 ^ 23 + (m + 2 ^ 23) = a.mag := by
      have hsplit := Nat.div_add_mod a.mag (2 ^ 23)
      have : (e - 1 + 1) * 2 ^ 23 = e * 2 ^ 23 := by congr 1; omega
      omega
    rw [h1]; omega

/-- The magnitude of a product of finite words is that of one factor at most, when the other is 1 at most. -/
theorem NUM.roundMag_mul_le (a b : NUM) (ha : a.mag < NUM.infMag) (hb : b.unitsAbs ≤ 1 <<< 149) :
    NUM.roundMag (a.unitsAbs * b.unitsAbs) (1 <<< 149) ≤ a.mag := by
  rw [← NUM.roundMag_unitsAbs a ha]
  apply NUM.roundMag_mono (by decide) one_pos
  rw [mul_one]
  exact Nat.mul_le_mul_left _ hb

theorem NUM.unitsAbs_of_mag_le_one (b : NUM) (h : b.mag ≤ 0x3F800000) : b.unitsAbs ≤ 1 <<< 149 := by
  unfold NUM.unitsAbs
  split
  · have : (2 ^ 23 : Nat) ≤ 1 <<< 149 := by decide
    omega
  · rename_i h0
    set e := b.mag / 2 ^ 23 with he
    set m := b.mag % 2 ^ 23 with hm
    have hm2 : m < 2 ^ 23 := Nat.mod_lt _ (by decide)
    rw [Nat.shiftLeft_eq]
    rcases Nat.lt_or_ge e 127 with h1 | h1
    · calc (m + 2 ^ 23) * 2 ^ (e - 1) ≤ 2 ^ 24 * 2 ^ 125 :=
            Nat.mul_le_mul (by omega) (Nat.pow_le_pow_right (by decide) (by omega))
        _ = 1 <<< 149 := by decide
    · have he2 : e = 127 := by omega
      have hm0 : m = 0 := by omega
      rw [he2, hm0]; decide

/-- The product of a finite word and a word of magnitude 1 at most: its sign and a magnitude bound. -/
theorem NUM.mul_mag_le (a b : NUM) (ha : a.mag < NUM.infMag) (hb : b.mag ≤ 0x3F800000) :
    (a.mul b).mag ≤ a.mag ∧ (a.mul b).sign = (a.sign != b.sign) := by
  have hbi : b.mag < NUM.infMag := lt_of_le_of_lt hb (by decide)
  have na : a.isNaN = false := (NUM.isNaN_eq_false_iff a).2 ha.le
  have nb : b.isNaN = false := (NUM.isNaN_eq_false_iff b).2 hbi.le
  have ia : a.isInf = false := by rw [Bool.eq_false_iff, Ne, NUM.isInf_iff]; omega
  have ib : b.isInf = false := by rw [Bool.eq_false_iff, Ne, NUM.isInf_iff]; omega
  have hle := NUM.roundMag_mul_le a b ha (NUM.unitsAbs_of_mag_le_one b hb)
  have hlt : NUM.roundMag (a.unitsAbs * b.unitsAbs) (1 <<< 149) < 2 ^ 31 := lt_of_le_of_lt hle a.mag_lt
  unfold NUM.mul
  simp only [na, nb, ia, ib, Bool.or_self, Bool.false_eq_true, ↓reduceIte]
  exact ⟨by rw [NUM.ofMag_mag _ _ hlt]; exact hle, NUM.ofMag_sign _ _ hlt⟩

/-! ## `TANH` and draws -/

/-- A magnitude below that of 1 is a word in [0, 1). -/
theorem NUM.ofMag_inPhase (m : Nat) (h : m ≤ 0x3F7FFFFF) :
    NUM.zero.le (NUM.ofMag false m) = true ∧ (NUM.ofMag false m).lt NUM.one = true := by
  have hm := NUM.ofMag_mag false m (lt_of_le_of_lt h (by decide))
  have hg := NUM.ofMag_sign false m (lt_of_le_of_lt h (by decide))
  have hn : (NUM.ofMag false m).isNaN = false :=
    (NUM.isNaN_eq_false_iff _).2 (by rw [hm]; exact Nat.le_trans h (by decide))
  have hk : (NUM.ofMag false m).key = (m : Int) := by
    unfold NUM.key; rw [hg, hm, if_neg Bool.false_ne_true]
  have k0 : NUM.zero.key = 0 := by decide +kernel
  have k1 : NUM.one.key = 0x3F800000 := by decide +kernel
  refine ⟨(NUM.le_iff _ _).2 ⟨by decide +kernel, hn, ?_⟩, (NUM.lt_iff _ _).2 ⟨hn, by decide +kernel, ?_⟩⟩
  · rw [k0, hk]; omega
  · rw [k1, hk]; omega

/-- `TANH` of a number is at most 1 in magnitude (R165). -/
theorem NUM.tanh_mag_le_one (x : NUM) (h : x.isNaN = false) : x.tanh.mag ≤ 0x3F800000 := by
  unfold NUM.tanh
  rw [h]
  simp only [Bool.false_eq_true, ↓reduceIte]
  split
  · rw [NUM.ofMag_mag _ _ (by decide)]
  · unfold roundFix
    have hle : NUM.roundMag ((fixExp2 x - fixOne) <<< 149) (fixExp2 x + fixOne) ≤ 0x3F800000 := by
      have e1 : NUM.roundMag (1 <<< 149) 1 = 0x3F800000 := by decide +kernel
      rw [← e1]
      have hp : 0 < fixOne := by decide +kernel
      apply NUM.roundMag_mono (by omega) one_pos
      rw [mul_one, Nat.shiftLeft_eq, Nat.shiftLeft_eq, one_mul, mul_comm (2 ^ 149)]
      exact Nat.mul_le_mul_right _ (by omega)
    rw [NUM.ofMag_mag _ _ (lt_of_le_of_lt hle (by decide))]
    exact hle

/-- A draw is in [0, 1) (R163). -/
theorem rngOut_inPhase (s : BitVec 32) : NUM.zero.le (rngOut s) = true ∧ (rngOut s).lt NUM.one = true := by
  have hs : s.toNat / 256 ≤ 16777215 := by have := s.isLt; omega
  have hle : NUM.roundMag ((s.toNat / 256) <<< 149) 16777216 ≤ 0x3F7FFFFF := by
    have e1 : NUM.roundMag (16777215 <<< 149) 16777216 = 0x3F7FFFFF := by decide +kernel
    rw [← e1]
    apply NUM.roundMag_mono (by decide) (by decide)
    rw [Nat.shiftLeft_eq, Nat.shiftLeft_eq]
    exact Nat.mul_le_mul_right _ (Nat.mul_le_mul_right _ hs)
  have e : rngOut s = NUM.ofMag false (NUM.roundMag ((s.toNat / 256) <<< 149) 16777216) := by
    unfold rngOut NUM.ofRat
    rw [Int.natAbs_natCast, decide_eq_false (by omega)]
  rw [e]
  exact NUM.ofMag_inPhase _ hle

end Sys2Proof
end

