-- ==== Sys2Proof/Laws/Elementary.lean ====
section
/-! SUPPORT. What the fixed-point series give: the bounds of `sin` and `cos` on the first quarter turn, and the tangent
of an angle in (0, 0.45·PI] as a positive number (R6). -/

namespace Sys2Proof

set_option Elab.async false

/-! ## Fixed-point products -/

theorem sinSeries_le (r2 n acc : Nat) (h : acc ≤ fixOne) : sinSeries r2 n acc ≤ fixOne := by
  induction n generalizing acc with
  | zero => exact h
  | succ n ih => exact ih _ (Nat.sub_le _ _)

theorem cosSeries_le (r2 n acc : Nat) (h : acc ≤ fixOne) : cosSeries r2 n acc ≤ fixOne := by
  induction n generalizing acc with
  | zero => exact h
  | succ n ih => exact ih _ (Nat.sub_le _ _)

theorem sinSeries_succ (r2 n acc : Nat) :
    ∃ a, (acc ≤ fixOne → a ≤ fixOne) ∧ sinSeries r2 (n + 1) acc = fixOne - fixMul r2 a / 6 := by
  induction n generalizing acc with
  | zero => exact ⟨acc, id, rfl⟩
  | succ n ih =>
    obtain ⟨a, h, e⟩ := ih (fixOne - fixMul r2 acc / ((2 * (n + 1) + 2) * (2 * (n + 1) + 3)))
    exact ⟨a, fun _ => h (Nat.sub_le _ _), e⟩

/-- The last three steps of the cosine series. -/
theorem cosSeries_succ (r2 n acc : Nat) (h : acc ≤ fixOne) :
    ∃ a, a ≤ fixOne ∧ cosSeries r2 (n + 3) acc =
      fixOne - fixMul r2 (fixOne - fixMul r2 (fixOne - fixMul r2 a / 30) / 12) / 2 := by
  induction n generalizing acc with
  | zero => exact ⟨acc, h, rfl⟩
  | succ n ih => exact ih _ (Nat.sub_le _ _)

theorem fixOne_pos : 0 < fixOne := by decide +kernel

theorem fixMul_eq (a b : Nat) : fixMul a b = a * b / fixOne := by
  unfold fixMul fixOne; rw [Nat.shiftRight_eq_div_pow, Nat.shiftLeft_eq, one_mul]

theorem fixMul_le {a b c d : Nat} (h : a ≤ c) (h' : b ≤ d) : fixMul a b ≤ fixMul c d := by
  rw [fixMul_eq, fixMul_eq]; exact Nat.div_le_div_right (Nat.mul_le_mul h h')

theorem fixMul_one (a : Nat) : fixMul a fixOne = a := by
  rw [fixMul_eq]; exact Nat.mul_div_cancel _ fixOne_pos

/-- A product is not below its truncated value by a whole unit. -/
theorem le_mul_fixMul {a b m k : Nat} (h : m * fixOne ≤ k * (a * b)) : m ≤ k * fixMul a b + k := by
  rw [fixMul_eq]
  have e := Nat.lt_div_mul_add fixOne_pos (a := a * b)
  by_contra hc
  have : (k * (a * b / fixOne) + k) * fixOne < m * fixOne := Nat.mul_lt_mul_of_pos_right (by omega) fixOne_pos
  nlinarith

theorem mul_fixMul_le {a b m k : Nat} (h : k * (a * b) ≤ m * fixOne) : k * fixMul a b ≤ m := by
  rw [fixMul_eq]
  have e := Nat.div_mul_le_self (a * b) fixOne
  have : k * (a * b / fixOne) * fixOne ≤ m * fixOne := by nlinarith
  exact Nat.le_of_mul_le_mul_right this fixOne_pos

/-- `sin r` is above `5/8·r` less one unit, and at most `r`, for `r^2 <= 2`. -/
theorem fixSin_within (r : Nat) (h : fixMul r r ≤ 2 * fixOne) : fixSin r ≤ r ∧ 2 * r ≤ 3 * fixSin r + 3 := by
  unfold fixSin
  obtain ⟨a, ha, e⟩ := sinSeries_succ (fixMul r r) 39 fixOne
  rw [e]
  have h1 : fixMul (fixMul r r) a ≤ 2 * fixOne := (fixMul_le le_rfl (ha le_rfl)).trans (by rw [fixMul_one]; exact h)
  set b := fixOne - fixMul (fixMul r r) a / 6 with hb
  have h3 : 2 * fixOne ≤ 3 * b := by omega
  refine ⟨(fixMul_le le_rfl (Nat.sub_le _ _)).trans (fixMul_one r).le, ?_⟩
  exact le_mul_fixMul (by nlinarith)

theorem fixCos_within (r : Nat) (h : fixMul r r ≤ 2 * fixOne) : fixCos r ≤ fixOne ∧ fixOne ≤ 8 * fixCos r + 16 := by
  unfold fixCos
  refine ⟨cosSeries_le _ _ _ le_rfl, ?_⟩
  obtain ⟨a, ha, e⟩ := cosSeries_succ (fixMul r r) 37 fixOne le_rfl
  rw [e]
  set t := fixMul r r with ht
  have h1 : fixMul t a ≤ 2 * fixOne := (fixMul_le le_rfl ha).trans (by rw [fixMul_one]; exact h)
  set b := fixOne - fixMul t a / 30 with hb
  rcases Nat.lt_or_ge (4 * t) (7 * fixOne) with hlt | hge
  · have h2 : fixMul t (fixOne - fixMul t b / 12) ≤ t := (fixMul_le le_rfl (Nat.sub_le _ _)).trans (fixMul_one t).le
    omega
  · have hb2 : 14 * fixOne ≤ 15 * b := by omega
    have h3 := le_mul_fixMul (a := t) (b := b) (m := 98 * fixOne) (k := 60) (by
      have := Nat.mul_le_mul hge hb2
      nlinarith)
    have h4 : 8 * (fixOne - fixMul t b / 12) ≤ 7 * fixOne + 8 := by omega
    have h7 : 8 * fixMul t (fixOne - fixMul t b / 12) ≤ 14 * fixOne + 16 :=
      mul_fixMul_le (by have := Nat.mul_le_mul h h4; nlinarith)
    omega

/-- `fixOf` keeps the order of the words that are not below 0. -/
theorem unitsAbs_mono {a b : NUM} (h : a.mag ≤ b.mag) : a.unitsAbs ≤ b.unitsAbs := by
  unfold NUM.unitsAbs
  set e := a.mag / 2 ^ 23 with he
  set f := b.mag / 2 ^ 23 with hf
  have hef : e ≤ f := Nat.div_le_div_right h
  have hm : a.mag % 2 ^ 23 < 2 ^ 23 := Nat.mod_lt _ (by decide)
  have hae := Nat.div_add_mod a.mag (2 ^ 23)
  have hbf := Nat.div_add_mod b.mag (2 ^ 23)
  rw [← he] at hae; rw [← hf] at hbf
  split
  · split
    · exact h
    · rename_i h0 h1
      rw [Nat.shiftLeft_eq]
      calc a.mag ≤ (b.mag % 2 ^ 23 + 2 ^ 23) * 1 := by rw [h0] at hae; omega
        _ ≤ _ := Nat.mul_le_mul_left _ Nat.one_le_two_pow
  · rename_i h0
    rw [if_neg (by omega), Nat.shiftLeft_eq, Nat.shiftLeft_eq]
    rcases Nat.lt_or_ge e f with hlt | hge
    · calc (a.mag % 2 ^ 23 + 2 ^ 23) * 2 ^ (e - 1) ≤ 2 ^ 24 * 2 ^ (e - 1) := Nat.mul_le_mul_right _ (by omega)
        _ = 2 ^ 23 * 2 ^ e := by rw [show e = (e - 1) + 1 by omega, pow_succ]; simp; ring
        _ ≤ (b.mag % 2 ^ 23 + 2 ^ 23) * 2 ^ (f - 1) :=
            Nat.mul_le_mul (by omega) (Nat.pow_le_pow_right (by decide) (by omega))
    · have : e = f := by omega
      rw [this] at hae ⊢
      exact Nat.mul_le_mul_right _ (by omega)

theorem fixOf_mono {a b : NUM} (h : a.mag ≤ b.mag) : fixOf a ≤ fixOf b := by
  unfold fixOf; rw [Nat.shiftLeft_eq, Nat.shiftLeft_eq]; exact Nat.mul_le_mul_right _ (unitsAbs_mono h)

theorem NUM.pos_iff (a : NUM) : NUM.zero.lt a = true ↔ a.isNaN = false ∧ a.sign = false ∧ 0 < a.mag := by
  rw [NUM.lt_iff, show NUM.zero.key = 0 by decide +kernel, show NUM.zero.isNaN = false by decide +kernel]
  unfold NUM.key
  cases a.sign <;> simp

/-- The tangent of an angle in (0, 0.45·PI] is a positive number (R6). -/
theorem NUM.tan_pos {x : NUM} (h0 : NUM.zero.lt x = true)
    (h : x.le ((NUM.ofRat 45 100).mul Config.binary32.pi) = true) : x.tan.isFinite = true ∧ NUM.zero.lt x.tan = true := by
  obtain ⟨hn, hs, hm⟩ := (NUM.pos_iff x).1 h0
  have hx : x.mag ≤ ((NUM.ofRat 45 100).mul Config.binary32.pi).mag := by
    have := ((NUM.le_iff _ _).1 h).2.2
    unfold NUM.key at this
    rw [hs, show ((NUM.ofRat 45 100).mul Config.binary32.pi).sign = false by decide +kernel] at this
    simpa using this
  have hle := fixOf_mono hx
  have hge := fixOf_mono (a := ⟨1#32⟩) (b := x) (by rw [show (NUM.mk 1#32).mag = 1 by decide +kernel]; exact hm)
  have hfin : x.isFinite = true := (NUM.isFinite_iff x).2 (hx.trans_lt (by decide +kernel))
  have hq : quarterTurns x = 0 := Nat.div_eq_of_lt (hle.trans_lt (by decide +kernel))
  have hr : quarterRest x = fixOf x := Nat.mod_eq_of_lt (hle.trans_lt (by decide +kernel))
  have e : x.tan = roundFix false (fixSin (fixOf x)) (fixCos (fixOf x)) := by
    unfold NUM.tan; rw [if_pos hfin, hq, hr, hs]; rfl
  set r := fixOf x with hrdef
  have hrr : fixMul r r ≤ 2 * fixOne := (fixMul_le hle hle).trans (by decide +kernel)
  obtain ⟨s1, s2⟩ := fixSin_within r hrr
  obtain ⟨c1, c2⟩ := fixCos_within r hrr
  have hone : 2 ^ 319 ≤ fixOne := by decide +kernel
  have hone' : 16 ≤ fixOne := by decide +kernel
  have hc : 0 < fixCos r := by omega
  have hup : NUM.roundMag (fixSin r <<< 149) (fixCos r) ≤ 0x47800000 := by
    rw [show 0x47800000 = NUM.roundMag (65536 <<< 149) 1 by decide +kernel]
    apply NUM.roundMag_mono hc one_pos
    rw [mul_one, Nat.shiftLeft_eq, Nat.shiftLeft_eq, mul_assoc, mul_comm (2 ^ 149), ← mul_assoc]
    apply Nat.mul_le_mul_right
    have : r ≤ 2 * fixOne := hle.trans (by decide +kernel)
    have : 17 ≤ fixOne := by decide +kernel
    omega
  have hlow : 1 ≤ NUM.roundMag (fixSin r <<< 149) (fixCos r) := by
    rw [show 1 = NUM.roundMag 5 8 by decide +kernel]
    apply NUM.roundMag_mono (by decide) hc
    have h5 : fixOf ⟨1#32⟩ * 2 ^ 149 = fixOne := by decide +kernel
    have h7 : 2 ^ 100 ≤ fixOf ⟨1#32⟩ := by decide +kernel
    have h6 : 5 * fixOf ⟨1#32⟩ ≤ fixSin r * 8 := by omega
    rw [Nat.shiftLeft_eq]
    calc 5 * fixCos r ≤ 5 * (fixOf ⟨1#32⟩ * 2 ^ 149) := by rw [h5]; omega
      _ = 5 * fixOf ⟨1#32⟩ * 2 ^ 149 := (mul_assoc _ _ _).symm
      _ ≤ fixSin r * 8 * 2 ^ 149 := Nat.mul_le_mul_right _ h6
      _ = fixSin r * 2 ^ 149 * 8 := mul_right_comm _ _ _
  have hlt : NUM.roundMag (fixSin r <<< 149) (fixCos r) < 2 ^ 31 := by omega
  have hmag : x.tan.mag = NUM.roundMag (fixSin r <<< 149) (fixCos r) := by rw [e]; exact NUM.ofMag_mag _ _ hlt
  have hsg : x.tan.sign = false := by rw [e]; exact NUM.ofMag_sign _ _ hlt
  have hfi : x.tan.mag < NUM.infMag := by rw [hmag]; exact hup.trans_lt (by decide)
  exact ⟨(NUM.isFinite_iff _).2 hfi, (NUM.pos_iff _).2 ⟨(NUM.isNaN_eq_false_iff _).2 hfi.le, hsg, by omega⟩⟩

end Sys2Proof
end

