-- ==== Sys2Proof/Laws/Rounding.lean ====
section
/-! SUPPORT. The reference number format keeps the premise on a format (R8): its order is that of the values, and every
operator of `NUM` gives its exact real result, rounded. -/

namespace Sys2Proof.NUM

/-- `v` is the number of `n / d` units of 2^-149 rounded: on the same side of every finite word as that number. -/
def RoundsUnits (v : NUM) (n : Int) (d : Nat) : Prop :=
  v.isNaN = false ∧ ∀ w : NUM, w.isFinite = true →
    (w.units * d ≤ n → w.le v = true) ∧ (n ≤ w.units * d → v.le w = true)

variable {a b w : NUM} {n d : Nat}

theorem roundMag_zero (hd : 0 < d) : roundMag 0 d = 0 := by
  have h := roundMag_mono hd one_pos (n := 0) (n' := 0) (by omega)
  rw [show roundMag 0 1 = 0 by decide +kernel] at h; omega

/-- A finite word below a number is below the word it rounds to. -/
theorem mag_le_roundMag (hw : w.mag < infMag) (hd : 0 < d) (h : w.unitsAbs * d ≤ n) : w.mag ≤ roundMag n d := by
  rw [← roundMag_unitsAbs w hw]; exact roundMag_mono one_pos hd (by rw [mul_one]; exact h)

/-- A finite word above a number is above the word it rounds to. -/
theorem roundMag_le_mag (hw : w.mag < infMag) (hd : 0 < d) (h : n ≤ w.unitsAbs * d) : roundMag n d ≤ w.mag := by
  rw [← roundMag_unitsAbs w hw]; exact roundMag_mono hd one_pos (by rw [mul_one]; exact h)

theorem key_ofMag (neg : Bool) {m : Nat} (h : m ≤ infMag) : (ofMag neg m).key = if neg then -(m : Int) else m := by
  have hm : m < 2 ^ 31 := Nat.lt_of_le_of_lt h (by decide)
  unfold key; rw [ofMag_mag _ _ hm, ofMag_sign _ _ hm]

/-- A sign and the rounded magnitude are the rounding of the signed number. -/
theorem rounds_ofMag (neg : Bool) (n : Nat) (hd : 0 < d) :
    RoundsUnits (ofMag neg (roundMag n d)) (if neg then -(n : Int) else n) d := by
  have hi := roundMag_le_inf n d
  have nn : (ofMag neg (roundMag n d)).isNaN = false :=
    (isNaN_eq_false_iff _).2 (by rw [ofMag_mag _ _ (Nat.lt_of_le_of_lt hi (by decide))]; exact hi)
  refine ⟨nn, fun w hw => ?_⟩
  have hf := (isFinite_iff w).1 hw
  have nw : w.isNaN = false := (isNaN_eq_false_iff w).2 (Nat.le_of_lt hf)
  have up := @mag_le_roundMag w n d hf hd
  have dn := @roundMag_le_mag w n d hf hd
  have z := @roundMag_zero d hd
  have hu : w.units * (d : Int) = if w.sign then -((w.unitsAbs * d : Nat) : Int) else ((w.unitsAbs * d : Nat) : Int) := by
    unfold units; push_cast; split <;> ring
  rw [hu, le_iff, le_iff, nn, nw, key_ofMag neg hi, key]
  simp only [true_and]
  generalize w.unitsAbs * d = p at *
  cases neg <;> cases w.sign <;> simp only [Bool.false_eq_true, ↓reduceIte] <;> refine ⟨fun h => ?_, fun h => ?_⟩
  all_goals try have h1 := up (by omega)
  all_goals try have h2 := dn (by omega)
  all_goals first
    | omega
    | (have e : roundMag n d = 0 := by rw [show n = 0 by omega]; exact z
       omega)

theorem isInf_of_finite (h : a.isFinite = true) : a.isInf = false := by
  rw [Bool.eq_false_iff, Ne, isInf_iff]; have := (isFinite_iff a).1 h; omega

theorem isNaN_of_finite (h : a.isFinite = true) : a.isNaN = false :=
  (isNaN_eq_false_iff a).2 (Nat.le_of_lt ((isFinite_iff a).1 h))

theorem add_roundsUnits (ha : a.isFinite = true) (hb : b.isFinite = true) :
    RoundsUnits (a.add b) (a.units + b.units) 1 := by
  unfold add
  simp only [isNaN_of_finite ha, isNaN_of_finite hb, isInf_of_finite ha, isInf_of_finite hb, Bool.or_self,
    Bool.false_eq_true, ↓reduceIte]
  split
  · rename_i h0
    have := rounds_ofMag (a.sign && b.sign) 0 one_pos
    rw [roundMag_zero one_pos] at this
    rw [h0]; simpa using this
  · have := rounds_ofMag (decide (a.units + b.units < 0)) (a.units + b.units).natAbs one_pos
    convert this using 1
    by_cases h : a.units + b.units < 0
    · rw [decide_eq_true h, if_pos rfl]; omega
    · rw [decide_eq_false h, if_neg Bool.false_ne_true]; omega

theorem neg_units : a.neg.units = -a.units := by
  have hu : a.neg.unitsAbs = a.unitsAbs := by unfold unitsAbs neg; rw [ofMag_mag _ _ a.mag_lt]
  have hs : a.neg.sign = !a.sign := ofMag_sign _ _ a.mag_lt
  unfold units; rw [hu, hs]; cases a.sign <;> simp

theorem neg_isFinite (h : a.isFinite = true) : a.neg.isFinite = true := by
  rw [isFinite_iff] at *; unfold neg; rw [ofMag_mag _ _ a.mag_lt]; exact h

theorem sub_roundsUnits (ha : a.isFinite = true) (hb : b.isFinite = true) :
    RoundsUnits (a.sub b) (a.units - b.units) 1 := by
  have := add_roundsUnits ha (neg_isFinite hb)
  rwa [neg_units, ← sub_eq_add_neg] at this

theorem units_mul : a.units * b.units =
    if (a.sign != b.sign) = true then -((a.unitsAbs * b.unitsAbs : Nat) : Int) else ((a.unitsAbs * b.unitsAbs : Nat) : Int) := by
  unfold units; cases a.sign <;> cases b.sign <;> simp

theorem mul_roundsUnits (ha : a.isFinite = true) (hb : b.isFinite = true) :
    RoundsUnits (a.mul b) (a.units * b.units) (2 ^ 149) := by
  unfold mul
  simp only [isNaN_of_finite ha, isNaN_of_finite hb, isInf_of_finite ha, isInf_of_finite hb, Bool.or_self,
    Bool.false_eq_true, ↓reduceIte]
  have := rounds_ofMag (a.sign != b.sign) (a.unitsAbs * b.unitsAbs) (show 0 < 2 ^ 149 by decide)
  rwa [← units_mul] at this

theorem div_roundsUnits (ha : a.isFinite = true) (hb : b.isFinite = true) (h0 : b.units ≠ 0) :
    RoundsUnits (a.div b) (a.units * 2 ^ 149 * b.units.sign) b.units.natAbs := by
  have hn : b.units.natAbs = b.unitsAbs := by unfold units; split <;> simp
  have hp : 0 < b.unitsAbs := by omega
  have hm : Nat.beq b.mag 0 = false := by
    rw [Bool.eq_false_iff, Ne, Nat.beq_eq]; intro hc; unfold unitsAbs at hp; rw [hc] at hp; simp at hp
  unfold div
  simp only [isNaN_of_finite ha, isNaN_of_finite hb, isInf_of_finite ha, isInf_of_finite hb, hm, Bool.or_self,
    Bool.false_eq_true, ↓reduceIte]
  have := rounds_ofMag (a.sign != b.sign) (a.unitsAbs <<< 149) hp
  rw [hn]
  convert this using 1
  rw [Nat.shiftLeft_eq]
  have hs : b.units.sign = if b.sign then -1 else 1 := by
    unfold units; split
    · rw [Int.sign_neg, Int.sign_natCast_of_ne_zero (by omega)]
    · rw [Int.sign_natCast_of_ne_zero (by omega)]
  rw [hs]; unfold units
  cases a.sign <;> cases b.sign <;> simp

/-! ## The units of a word and its value -/

theorem value_eq (a : NUM) : a.value = (a.units : ℚ) / 2 ^ 149 := by
  unfold value; rw [Rat.mkRat_eq_div, Nat.shiftLeft_eq]; norm_num

theorem value_le_iff : a.value ≤ b.value ↔ a.units ≤ b.units := by
  rw [value_eq, value_eq, div_le_div_iff_of_pos_right (by positivity), Int.cast_le]

/-- A finite word is its own rounding. -/
theorem roundsUnits_self (ha : a.isFinite = true) : RoundsUnits a a.units 1 := by
  have h := rounds_ofMag a.sign a.unitsAbs one_pos
  rwa [roundMag_unitsAbs a ((isFinite_iff a).1 ha), ofMag_sign_mag] at h

/-- Finite words are ordered as their values are. -/
theorem le_iff_units (ha : a.isFinite = true) (hb : b.isFinite = true) : a.le b = true ↔ a.units ≤ b.units := by
  have hab := ((roundsUnits_self ha).2 b hb).2
  have hba := ((roundsUnits_self ha).2 b hb).1
  rw [Nat.cast_one, mul_one] at hab hba
  refine ⟨fun h => ?_, hab⟩
  by_contra hc
  have h1 := (le_iff _ _).1 h
  have h2 := (le_iff _ _).1 (hba (by omega))
  have hk : a.key = b.key := le_antisymm h1.2.2 h2.2.2
  apply hc
  have hm : a.mag = b.mag := by unfold key at hk; split at hk <;> split at hk <;> omega
  have hu : a.unitsAbs = b.unitsAbs := by unfold unitsAbs; rw [hm]
  have hz : a.mag = 0 → a.unitsAbs = 0 := fun h => by unfold unitsAbs; rw [h]; rfl
  unfold key at hk; unfold units
  split at hk <;> split at hk <;> simp only [*, Bool.false_eq_true, ↓reduceIte, le_refl] <;> omega

/-! ## From units to real numbers -/

/-- The rounding of a number of units is that of the real number. -/
theorem RoundsUnits.rounds {v : NUM} {n : Int} {x : ℝ} (h : RoundsUnits v n d) (hd : 0 < d) (hx : x * 2 ^ 149 * d = n) :
    Config.binary32.Rounds v x := by
  have hp : (0 : ℝ) < 2 ^ 149 * d := by positivity
  refine ⟨h.1, fun w hw => ⟨fun hl => (h.2 w hw).1 ?_, fun hl => (h.2 w hw).2 ?_⟩⟩ <;>
  · have e : (w.units : ℝ) = (w.value : ℝ) * 2 ^ 149 := by rw [value_eq]; push_cast; field_simp
    have hl' := mul_le_mul_of_nonneg_right hl hp.le
    have : ((w.units * d : Int) : ℝ) = (w.value : ℝ) * (2 ^ 149 * d) := by push_cast; rw [e]; ring
    rw [← @Int.cast_le ℝ, this, ← hx, mul_assoc]
    exact hl'

theorem rounds_self (ha : a.isFinite = true) : Config.binary32.Rounds a (a.value : ℚ) :=
  (roundsUnits_self ha).rounds one_pos (by rw [value_eq]; push_cast; field_simp)

theorem div_rounds (ha : a.isFinite = true) (hb : b.isFinite = true) (h0 : b.value ≠ 0) :
    Config.binary32.Rounds (a.div b) (a.value / b.value : ℚ) := by
  have hu : b.units ≠ 0 := fun h => h0 (by rw [value_eq, h]; simp)
  refine (div_roundsUnits ha hb hu).rounds (Int.natAbs_pos.2 hu) ?_
  rw [value_eq, value_eq, Nat.cast_natAbs]
  have : |(b.units : ℝ)| = b.units * b.units.sign := by
    rw [← Int.cast_abs]; exact_mod_cast (Int.mul_sign_self b.units).symm ▸ Int.abs_eq_natAbs _
  have h' : (b.units : ℝ) ≠ 0 := by exact_mod_cast hu
  push_cast; rw [this]; field_simp; norm_num; ring

/-- The sum, the difference and the product of finite words. -/
theorem add_rounds (ha : a.isFinite = true) (hb : b.isFinite = true) :
    Config.binary32.Rounds (a.add b) (a.value + b.value : ℚ) :=
  (add_roundsUnits ha hb).rounds one_pos (by rw [value_eq, value_eq]; push_cast; field_simp)

theorem sub_rounds (ha : a.isFinite = true) (hb : b.isFinite = true) :
    Config.binary32.Rounds (a.sub b) (a.value - b.value : ℚ) :=
  (sub_roundsUnits ha hb).rounds one_pos (by rw [value_eq, value_eq]; push_cast; field_simp)

theorem mul_rounds (ha : a.isFinite = true) (hb : b.isFinite = true) :
    Config.binary32.Rounds (a.mul b) (a.value * b.value : ℚ) :=
  (mul_roundsUnits ha hb).rounds (Nat.two_pow_pos 149) (by rw [value_eq, value_eq]; push_cast; field_simp; norm_num; ring)

theorem ofRat_rounds (n : Int) (d : Nat) (hd : 0 < d) : Config.binary32.Rounds (ofRat n d) ((n : ℝ) / d) := by
  have h := rounds_ofMag (decide (n < 0)) (n.natAbs <<< 149) hd
  have hn : (if decide (n < 0) = true then -((n.natAbs <<< 149 : Nat) : Int) else ((n.natAbs <<< 149 : Nat) : Int)) =
      n * 2 ^ 149 := by
    rw [Nat.shiftLeft_eq]; push_cast
    split <;> rename_i h <;> simp only [decide_eq_true_eq] at h
    · rw [abs_of_neg h]; ring
    · rw [abs_of_nonneg (by omega)]
  rw [hn] at h
  have hd' : (d : ℝ) ≠ 0 := by positivity
  unfold ofRat
  exact h.rounds hd (by push_cast; field_simp; norm_num)

theorem floor_value (ha : a.isFinite = true) : a.floor = ⌊a.value⌋ := by
  unfold floor; rw [if_pos ha, value_eq, Nat.shiftLeft_eq, one_mul,
    ← Rat.floor_intCast_div_natCast]
  push_cast; rfl

theorem abs_value : a.abs.value = |a.value| := by
  have hu : a.abs.unitsAbs = a.unitsAbs := by unfold unitsAbs abs; rw [ofMag_mag _ _ a.mag_lt]
  have hs : a.abs.sign = false := ofMag_sign _ _ a.mag_lt
  rw [value_eq, value_eq, abs_div, abs_of_pos (show (0 : ℚ) < 2 ^ 149 by positivity)]
  unfold units; rw [hs, hu]; cases a.sign <;> simp

theorem abs_isFinite (h : a.isFinite = true) : a.abs.isFinite = true := by
  rw [isFinite_iff] at *; rwa [a.abs_mag]

/-- `PI`: the word above the real number and the one below it. -/
theorem pi_rounds : Config.binary32.Rounds Config.binary32.pi Real.pi := by
  set p : NUM := ⟨0x40490FDB#32⟩
  set q : NUM := ⟨0x40490FDA#32⟩
  have hp : p.isFinite = true := by decide +kernel
  have hq : q.isFinite = true := by decide +kernel
  have vp : p.value = 13176795 / 4194304 := by rw [value_eq]; norm_num [show p.units = 13176795 * 2 ^ 127 by decide +kernel]
  have vq : q.value = 13176794 / 4194304 := by rw [value_eq]; norm_num [show q.units = 13176794 * 2 ^ 127 by decide +kernel]
  have np := isNaN_of_finite hp
  refine ⟨np, fun w hw => ⟨fun h => ?_, fun h => ?_⟩⟩
  · refine (le_iff_units hw hp).2 (value_le_iff.1 ?_)
    have : ((w.value : ℚ) : ℝ) ≤ (p.value : ℚ) := h.trans (by rw [vp]; norm_num; linarith [Real.pi_lt_d20])
    exact_mod_cast this
  · have hlt : ((q.value : ℚ) : ℝ) < (w.value : ℚ) :=
      lt_of_lt_of_le (by rw [vq]; norm_num; linarith [Real.pi_gt_d20]) h
    have hnu : ¬ w.units ≤ q.units := fun hc => absurd (value_le_iff.2 hc) (not_le.2 (by exact_mod_cast hlt))
    have hk : q.key < w.key := by
      by_contra hc
      exact hnu ((le_iff_units hw hq).1 ((le_iff _ _).2 ⟨isNaN_of_finite hw, isNaN_of_finite hq, by omega⟩))
    refine (le_iff _ _).2 ⟨np, isNaN_of_finite hw, ?_⟩
    have : p.key = q.key + 1 := by decide +kernel
    show p.key ≤ w.key; omega

end Sys2Proof.NUM

namespace Sys2Proof.Config

/-! ## The premise on a number format -/

theorem binary32_orderAdmissible : binary32.OrderAdmissible where
  notNaN := fun _ h => NUM.isNaN_of_finite h
  le_value := fun _ _ ha hb => (NUM.le_iff_units ha hb).trans NUM.value_le_iff.symm
  le_notNaN := fun a b h => ⟨((NUM.le_iff a b).1 h).1, ((NUM.le_iff a b).1 h).2.1⟩
  le_total := fun a b ha hb => by
    show a.le b = true ∨ b.le a = true
    rw [NUM.le_iff, NUM.le_iff]; rcases le_total a.key b.key with h | h
    · exact .inl ⟨ha, hb, h⟩
    · exact .inr ⟨hb, ha, h⟩
  le_trans := fun _ _ _ h h' => NUM.le_trans h h'
  lt_iff := fun a b => by
    show a.lt b = true ↔ a.le b = true ∧ b.le a = false
    rw [NUM.lt_iff, NUM.le_iff]
    constructor
    · exact fun h => ⟨⟨h.1, h.2.1, h.2.2.le⟩, Bool.eq_false_iff.2 fun hc => by have := ((NUM.le_iff _ _).1 hc).2.2; omega⟩
    · exact fun h => ⟨h.1.1, h.1.2.1, by
        by_contra hc; rw [(NUM.le_iff b a).2 ⟨h.1.2.1, h.1.1, by omega⟩] at h; exact absurd h.2 (by decide)⟩
  between := fun a v b ha hb h h' => by
    have h1 := (NUM.le_iff a v).1 h
    have h2 := (NUM.le_iff v b).1 h'
    have fa := (NUM.isFinite_iff a).1 ha
    have fb := (NUM.isFinite_iff b).1 hb
    have k1 := h1.2.2; have k2 := h2.2.2
    show v.isFinite = true
    rw [NUM.isFinite_iff]
    unfold NUM.key at k1 k2
    split_ifs at k1 k2 <;> omega

theorem binary32_arithmeticAdmissible : binary32.ArithmeticAdmissible where
  zero := by decide +kernel
  one := by decide +kernel
  denormMin := by decide +kernel
  neg := fun a h => ⟨NUM.neg_isFinite h, by
    show a.neg.value = -a.value
    rw [NUM.value_eq, NUM.value_eq, NUM.neg_units]; push_cast; ring⟩
  abs := fun _ h => ⟨NUM.abs_isFinite h, NUM.abs_value⟩
  floor := fun _ h => NUM.floor_value h
  ofRat := NUM.ofRat_rounds
  pi := NUM.pi_rounds
  add := fun _ _ ha hb => NUM.add_rounds ha hb
  sub := fun _ _ ha hb => NUM.sub_rounds ha hb
  mul := fun _ _ ha hb => NUM.mul_rounds ha hb
  div := fun _ _ ha hb h0 => NUM.div_rounds ha hb h0

/-- The conversions of `DATA` and of a port are the identity (R114, R116). -/
theorem binary32_portsAdmissible : binary32.PortsAdmissible where
  num_nan := fun _ h => h
  num := fun _ h => NUM.rounds_self h
  word := fun _ h => NUM.rounds_self h

end Sys2Proof.Config
end

