-- ==== Sys2Proof/Laws/Config.lean ====
section
/-! SUPPORT. The reference configuration: its functions by name, and that it keeps every bound the defining rules state,
so that the premise of R7 is met. -/

namespace Sys2Proof.Config

set_option Elab.async false

/-! ## The reference number format by name -/

@[simp] theorem reference_toFormat : reference.toFormat = binary32 := rfl
@[simp] theorem binary32_value : binary32.value = NUM.value := rfl
@[simp] theorem binary32_isNaN : binary32.isNaN = NUM.isNaN := rfl
@[simp] theorem binary32_isFinite : binary32.isFinite = NUM.isFinite := rfl
@[simp] theorem binary32_le : binary32.le = NUM.le := rfl
@[simp] theorem binary32_lt : binary32.lt = NUM.lt := rfl
@[simp] theorem binary32_floor : binary32.floor = NUM.floor := rfl
@[simp] theorem binary32_neg : binary32.neg = NUM.neg := rfl
@[simp] theorem binary32_abs : binary32.abs = NUM.abs := rfl
@[simp] theorem binary32_add : binary32.add = NUM.add := rfl
@[simp] theorem binary32_sub : binary32.sub = NUM.sub := rfl
@[simp] theorem binary32_mul : binary32.mul = NUM.mul := rfl
@[simp] theorem binary32_div : binary32.div = NUM.div := rfl
@[simp] theorem binary32_ofRat : binary32.ofRat = NUM.ofRat := rfl
@[simp] theorem binary32_zero : binary32.zero = NUM.zero := rfl
@[simp] theorem binary32_num : binary32.num = NUM.mk := rfl
@[simp] theorem binary32_word : binary32.word = NUM.bits := rfl
@[simp] theorem binary32_ofInt : binary32.ofInt = NUM.ofInt := rfl
@[simp] theorem binary32_ofNat : binary32.ofNat = NUM.ofNat := rfl
@[simp] theorem binary32_one : binary32.one = NUM.one := rfl
@[simp] theorem binary32_two : binary32.two = NUM.two := rfl
@[simp] theorem binary32_max : binary32.max = NUM.max := rfl
@[simp] theorem binary32_min : binary32.min = NUM.min := rfl
@[simp] theorem binary32_clamp : binary32.clamp = NUM.clamp := rfl
@[simp] theorem binary32_san : binary32.san = NUM.san := rfl
@[simp] theorem binary32_sanUnit : binary32.sanUnit = NUM.sanUnit := rfl
@[simp] theorem binary32_ftz : binary32.ftz = NUM.ftz := rfl
@[simp] theorem binary32_isRate : binary32.isRate = NUM.isRate := rfl
@[simp] theorem binary32_round : binary32.round = NUM.round := rfl
@[simp] theorem binary32_wrap1 : binary32.wrap1 = NUM.wrap1 := rfl
@[simp] theorem binary32_lerp : binary32.lerp = NUM.lerp := rfl

/-! ## The functions and parameters of the reference configuration by name -/

@[simp] theorem reference_sin : reference.sin = NUM.sin := rfl
@[simp] theorem reference_tan : reference.tan = NUM.tan := rfl
@[simp] theorem reference_tanh : reference.tanh = NUM.tanh := rfl
@[simp] theorem reference_pow : reference.pow = NUM.pow := rfl
@[simp] theorem reference_rngStep : reference.rngStep = Sys2Proof.rngStep := rfl
@[simp] theorem reference_rngOut : reference.rngOut = Sys2Proof.rngOut := rfl
@[simp] theorem reference_sat (x : NUM) : reference.sat x = x.tanh := rfl
@[simp] theorem reference_engineGain (k : Nat) : reference.engineGain k = NUM.one := rfl
@[simp] theorem reference_paramDefault (i : Nat) : reference.paramDefault i = NUM.zero := rfl
@[simp] theorem reference_resetOnSelect : reference.resetOnSelect = false := rfl
@[simp] theorem reference_resetOnNoteOn : reference.resetOnNoteOn = false := rfl
@[simp] theorem reference_fxSat : reference.fxSat = true := rfl
@[simp] theorem reference_dlyCap : reference.dlyCap = 48000 := by decide +kernel

/-- A word at most 1 in magnitude. -/
theorem abs_le_one {x : NUM} (h : x.mag ≤ 0x3F800000) : x.isNaN = false ∧ x.abs.le NUM.one = true := by
  have hn : x.isNaN = false := (NUM.isNaN_eq_false_iff x).2 (h.trans (by decide))
  have hm : x.abs.mag = x.mag := NUM.ofMag_mag _ _ x.mag_lt
  refine ⟨hn, (NUM.le_iff _ _).2 ⟨(NUM.isNaN_eq_false_iff _).2 (hm ▸ (NUM.isNaN_eq_false_iff x).1 hn),
    by decide +kernel, ?_⟩⟩
  have hk : x.abs.key = (x.mag : Int) := by
    unfold NUM.key; rw [hm, show x.abs.sign = false from NUM.ofMag_sign _ _ x.mag_lt]; rfl
  rw [hk, show NUM.one.key = 0x3F800000 by decide +kernel]; exact_mod_cast h

/-- A power of two not below `DENORM_MIN` is 2 to a power from -126 to 127. -/
theorem exponent_within {m : Int} {w : NUM} (hw : w.isFinite = true) (hv : w.value = 2 ^ m)
    (hd : binary32.denormMin.le w = true) : -126 ≤ m ∧ m ≤ 127 := by
  have hlo := (binary32_orderAdmissible.le_value _ w binary32_arithmeticAdmissible.denormMin.1 hw).1 hd
  have hmax : w.le ⟨0x7F7FFFFF#32⟩ = true := by
    refine (NUM.le_iff _ _).2 ⟨NUM.isNaN_of_finite hw, by decide +kernel, ?_⟩
    have h := (NUM.isFinite_iff w).1 hw
    rw [show (⟨0x7F7FFFFF#32⟩ : NUM).key = 0x7F7FFFFF by decide +kernel]
    rw [show NUM.infMag = 0x7F800000 from rfl] at h
    unfold NUM.key; split <;> omega
  have hhi := (NUM.le_iff_units hw (by decide +kernel)).1 hmax
  have hu : (w.units : ℚ) = 2 ^ (m + 149) := by
    rw [NUM.value_eq] at hv; rw [zpow_add₀ (by norm_num), ← hv]; field_simp
  have hlt : (w.units : ℚ) < 2 ^ (277 : Int) := by
    have : w.units < 2 ^ 200 * 2 ^ 77 := lt_of_le_of_lt hhi (by decide +kernel)
    rw [show (277 : Int) = 200 + 77 from rfl, zpow_add₀ (by norm_num)]
    exact_mod_cast this
  rw [hu, zpow_lt_zpow_iff_right₀ (by norm_num)] at hlt
  have hge : (2 : ℚ) ^ (-126 : Int) ≤ 2 ^ m := by
    rw [← hv]
    refine le_trans (le_of_eq (b := NUM.value (NUM.ofMag false NUM.denormMinMag)) ?_) hlo
    rw [NUM.value_eq, show (NUM.ofMag false NUM.denormMinMag).units = 2 ^ 23 by decide +kernel]; norm_num
  rw [zpow_le_zpow_iff_right₀ (by norm_num)] at hge
  omega

/-- `POW(2, m)` is exact for every power of two in the format (R6). -/
theorem pow_two_units : ∀ k < 254, (NUM.pow NUM.two (NUM.ofInt ((k : Nat) - 126))).isFinite = true ∧
    (NUM.pow NUM.two (NUM.ofInt ((k : Nat) - 126))).units = 2 ^ (k + 23) := by decide +kernel

theorem reference_functionsAdmissible : reference.FunctionsAdmissible where
  sin_zero := by decide +kernel
  tanh_zero := by decide +kernel
  tanh_bound := fun x h => by
    obtain ⟨hn, hl⟩ := abs_le_one (NUM.tanh_mag_le_one x h)
    exact ⟨(NUM.isFinite_iff _).2 (lt_of_le_of_lt (NUM.tanh_mag_le_one x h) (by decide)), hl⟩
  pow_exact := fun m w hw hv hd => by
    obtain ⟨h1, h2⟩ := exponent_within hw hv hd
    obtain ⟨k, rfl⟩ : ∃ k : Nat, m = k - 126 := ⟨(m + 126).toNat, by omega⟩
    obtain ⟨hf, hu⟩ := pow_two_units k (by omega)
    refine ⟨hf, ?_⟩
    show NUM.value (NUM.pow NUM.two (NUM.ofInt (k - 126))) = _
    rw [NUM.value_eq, hu, zpow_sub₀ (by norm_num)]
    push_cast
    rw [div_eq_div_iff (by positivity) (by positivity), zpow_natCast, pow_add, mul_assoc]; norm_num
  tan_bound := fun x h h' => NUM.tan_pos h h'
  rng_bound := fun s => by
    obtain ⟨h0, h1⟩ := rngOut_inPhase s
    have hz := binary32_arithmeticAdmissible.zero
    have ho := binary32_arithmeticAdmissible.one
    have hf := binary32_orderAdmissible.between _ _ _ hz.1 ho.1 h0 (NUM.le_of_lt h1)
    have hlo := (binary32_orderAdmissible.le_value _ _ hz.1 hf).1 h0
    have hhi : ¬ NUM.value NUM.one ≤ NUM.value (Sys2Proof.rngOut s) := fun hc => by
      have := (binary32_orderAdmissible.le_value _ _ ho.1 hf).2 hc
      have h2 := ((binary32_orderAdmissible.lt_iff _ _).1 h1).2
      exact absurd (this.symm.trans h2) (by decide)
    rw [hz.2] at hlo
    exact ⟨hf, hlo, lt_of_not_ge (fun hc => hhi (by rw [show NUM.value NUM.one = 1 from ho.2]; exact hc))⟩

theorem reference_globalsAdmissible : reference.GlobalsAdmissible where
  nParams := rfl
  sr := by decide +kernel
  noiseAmp := by decide +kernel
  engineGain := by decide +kernel
  sigMax := by decide +kernel
  silenceThresh := by decide +kernel
  envTMax := by decide +kernel
  incMax := by decide +kernel
  brightMin := by decide +kernel

theorem reference_oscillatorsAdmissible : reference.OscillatorsAdmissible where
  sineH2 := by decide +kernel
  sineH3 := by decide +kernel
  sinePm := by decide +kernel
  triLeak := by decide +kernel
  sqPwSpan := by decide +kernel
  ssDet := by decide +kernel
  ssPan := by decide +kernel
  ssDetuneMax := by decide +kernel
  ssNorm := by decide +kernel
  ssSideMin := by decide +kernel
  vaInt := by decide +kernel
  addDetune := by decide +kernel
  chordTab := by decide +kernel
  chordDet := by decide +kernel
  fmRatioMin := by decide +kernel
  fmRatioMax := by decide +kernel
  fmFbMax := by decide +kernel
  fmIndexMax := by decide +kernel
  vowel := by decide +kernel
  formantAmp := by decide +kernel
  formantPw := by decide +kernel
  formantQMin := by decide +kernel
  formantQMax := by decide +kernel
  formantFMax := by decide +kernel

theorem reference_stringPwmAdmissible : reference.StringPwmAdmissible where
  strCap := by decide +kernel
  strDetune := by decide +kernel
  strFb := by decide +kernel
  strDampMin := by decide +kernel
  strDampSpan := by decide +kernel
  strApG := by decide +kernel
  strExc := by decide +kernel
  strBowA := by decide +kernel
  strBowGain := by decide +kernel
  strStrikePeriod := by decide +kernel
  strPosMin := by decide +kernel
  pwmPwSpan := by decide +kernel
  pwmDriftPeriod := by decide +kernel
  pwmDriftSlew := by decide +kernel
  pwmDriftPw := by decide +kernel
  pwmDepthMin := by decide +kernel
  pwmDriftPh := by decide +kernel
  pwmSpread := by decide +kernel
  pwmDcR := by decide +kernel

theorem reference_effectsAdmissible : reference.EffectsAdmissible where
  fcMin := by decide +kernel
  fcMaxRatio := by decide +kernel
  resMax := by decide +kernel
  dlyDamp := by decide +kernel
  choBase := by decide +kernel
  choCap := by decide +kernel
  revCounts := by decide +kernel
  revPositive := by decide +kernel
  revCoprime := by decide +kernel
  revDifferent := by decide +kernel
  revCombMix := by decide +kernel

/-- The reference bodies stand, so there is no other body to hold to R172. -/
theorem reference_bodiesAdmissible : reference.BodiesAdmissible := by
  constructor <;> exact ⟨nofun, nofun⟩

/-- The spec's default configuration keeps every bound its rules state (R7). -/
theorem reference_admissible : reference.Admissible where
  order := binary32_orderAdmissible
  arithmetic := binary32_arithmeticAdmissible
  ports := binary32_portsAdmissible
  functions := reference_functionsAdmissible
  globals := reference_globalsAdmissible
  oscillators := reference_oscillatorsAdmissible
  stringPwm := reference_stringPwmAdmissible
  effects := reference_effectsAdmissible
  bodies := reference_bodiesAdmissible

end Sys2Proof.Config
end

