-- ==== Sys2Proof/Laws/Memory.lean ====
section
/-! SUPPORT. The circular buffers (R81 to R85): every operation keeps the canonical form, a read after a write to the same
word gives the word written, and a write leaves every other word alone. -/

namespace Sys2Proof.Machine

variable {N : Type} [DecidableEq N] {cfg : Config.Parameters N}

/-! ## Canonical form -/

theorem memWfFrom_cons (cap lo k : Nat) (v : N) (t : Memory N) :
    memWfFrom cap lo ((k, v) :: t) cfg = true ↔
      lo ≤ k ∧ k < cap ∧ v ≠ cfg.zero ∧ memWfFrom cap (k + 1) t cfg = true := by
  simp [memWfFrom, Nat.blt_eq, and_assoc]

theorem memWfFrom_mono {cap lo lo' : Nat} {m : Memory N} (h : memWfFrom cap lo m cfg = true) (hl : lo' ≤ lo) :
    memWfFrom cap lo' m cfg = true := by
  cases m with
  | nil => rfl
  | cons c t =>
    obtain ⟨k, v⟩ := c
    rw [memWfFrom_cons] at *
    exact ⟨by omega, h.2⟩

theorem memPut_memWfFrom {cap lo i : Nat} {m : Memory N} (v : N) (h : memWfFrom cap lo m cfg = true) (hl : lo ≤ i)
    (hi : i < cap) : memWfFrom cap lo (memPut m i v cfg) cfg = true := by
  induction m generalizing lo with
  | nil =>
    unfold memPut; split
    · rfl
    · rename_i hv; rw [memWfFrom_cons]; exact ⟨hl, hi, hv, rfl⟩
  | cons c t ih =>
    obtain ⟨k, w⟩ := c
    have hc := (memWfFrom_cons _ _ _ _ _).1 h
    unfold memPut
    split_ifs with h1 h2 h3 h4
    · exact h
    · rw [memWfFrom_cons]; exact ⟨hl, hi, h2, (memWfFrom_cons _ _ _ _ _).2 ⟨h1, hc.2⟩⟩
    · exact memWfFrom_mono hc.2.2.2 (by omega)
    · subst h3; rw [memWfFrom_cons]; exact ⟨hl, hi, h4, hc.2.2.2⟩
    · rw [memWfFrom_cons]; exact ⟨hc.1, hc.2.1, hc.2.2.1, ih hc.2.2.2 (by omega)⟩

/-- Below its first index a buffer in canonical form reads +0.0. -/
theorem memGet_below {cap lo i : Nat} {m : Memory N} (h : memWfFrom cap lo m cfg = true) (hi : i < lo) :
    memGet m i cfg = cfg.zero := by
  induction m generalizing lo with
  | nil => rfl
  | cons c t ih =>
    obtain ⟨k, w⟩ := c
    have hc := (memWfFrom_cons _ _ _ _ _).1 h
    unfold memGet
    rw [if_neg (by omega)]
    exact ih hc.2.2.2 (by omega)

/-- The word at `i` after `v` was put at `j`. -/
theorem memGet_memPut {cap lo : Nat} {m : Memory N} (h : memWfFrom cap lo m cfg = true) (j : Nat) (v : N) (i : Nat) :
    memGet (memPut m j v cfg) i cfg = if i = j then v else memGet m i cfg := by
  induction m generalizing lo with
  | nil =>
    unfold memPut
    by_cases hv : v = cfg.zero
    · rw [if_pos hv, hv]; simp [memGet]
    · rw [if_neg hv]; simp [memGet, eq_comm]
  | cons c t ih =>
    obtain ⟨k, w⟩ := c
    have hc := (memWfFrom_cons _ _ _ _ _).1 h
    unfold memPut
    have below : i < k → memGet t i cfg = cfg.zero := fun hik => memGet_below hc.2.2.2 (by omega)
    have key : i = k → memGet t i cfg = cfg.zero := fun hik => memGet_below hc.2.2.2 (by omega)
    by_cases h1 : j < k
    · by_cases hij : i = j
      · subst hij
        rw [if_pos h1, if_pos rfl]
        split_ifs with hv
        · rw [hv]; simp [memGet, below h1, Nat.ne_of_gt h1]
        · simp [memGet]
      · rw [if_pos h1, if_neg hij]
        split_ifs
        · rfl
        · simp [memGet, Ne.symm hij]
    · by_cases h2 : j = k
      · subst h2
        rw [if_neg h1, if_pos rfl]
        by_cases hij : i = j
        · subst hij
          rw [if_pos rfl]
          split_ifs with hv
          · rw [hv]; exact key rfl
          · simp [memGet]
        · rw [if_neg hij]
          split_ifs <;> simp [memGet, Ne.symm hij]
      · rw [if_neg h1, if_neg h2]
        simp only [memGet]
        rw [ih hc.2.2.2]
        by_cases hki : k = i
        · rw [if_pos hki, if_pos hki, if_neg (by omega)]
        · rw [if_neg hki, if_neg hki]

/-! ## The operations of R82 to R84 -/

theorem wrapIndex_lt (cap : Nat) (i : Int) (h : 0 < cap) : wrapIndex cap i < cap := by
  unfold wrapIndex
  have := Int.emod_lt_of_pos i (b := cap) (by exact_mod_cast h)
  have := Int.emod_nonneg i (b := cap) (by omega)
  omega

theorem wrapIndex_eq_iff (cap : Nat) (i j : Int) (h : 0 < cap) :
    wrapIndex cap i = wrapIndex cap j ↔ i % (cap : Int) = j % (cap : Int) := by
  unfold wrapIndex
  have := Int.emod_nonneg i (b := cap) (by omega)
  have := Int.emod_nonneg j (b := cap) (by omega)
  omega

/-- An index inside the buffer is not changed by wrapping. -/
theorem wrapIndex_of_lt (cap i : Nat) (h : i < cap) : wrapIndex cap i = i := by
  unfold wrapIndex
  rw [← Int.natCast_mod, Nat.mod_eq_of_lt h]; rfl

/-- `MemWrite` keeps the canonical form, in every configuration. -/
theorem memWrite_wf {cap : Nat} {m : Memory N} (h : Memory.wf cap m cfg = true) (hc : 0 < cap)
    (i : Int) (v : N) : Memory.wf cap (memWrite cap m i v cfg) cfg = true :=
  memPut_memWfFrom _ h (Nat.zero_le _) (wrapIndex_lt cap i hc)

/-- All that `MemWrite` does to the words that can be read: the word at the written index is the flushed value, every
other word is as before. -/
theorem memRead_memWrite {cap : Nat} {m : Memory N} (h : Memory.wf cap m cfg = true) (hc : 0 < cap)
    (i j : Int) (v : N) :
    memRead cap (memWrite cap m i v cfg) j cfg =
      if j % (cap : Int) = i % (cap : Int) then cfg.ftz v else memRead cap m j cfg := by
  unfold memRead memWrite
  rw [memGet_memPut h]
  exact if_congr (wrapIndex_eq_iff cap j i hc) rfl rfl

theorem memRead_memWrite_self {cap : Nat} {m : Memory N} (h : Memory.wf cap m cfg = true) (hc : 0 < cap) (i : Int) (v : N) :
    memRead cap (memWrite cap m i v cfg) i cfg = cfg.ftz v := by rw [memRead_memWrite h hc, if_pos rfl]

omit [DecidableEq N] in
/-- A cleared buffer reads +0.0 everywhere (R85). -/
theorem memRead_nil (cap : Nat) (i : Int) : memRead cap [] i cfg = cfg.zero := rfl

theorem memory_wf_nil (cap : Nat) : Memory.wf cap [] cfg = true := rfl

theorem cursorNext_lt {cap : Nat} (h : 0 < cap) (w : Nat) : cursorNext cap w < cap := Nat.mod_lt _ h

/-! ## Flushed buffers (R83) -/

theorem ftz_flushed (v : NUM) : v.ftz.flushed = true := by simp [NUM.flushed, NUM.ftz_ftz]

theorem memPut_flushed {m : Memory NUM} (i : Nat) {v : NUM} (h : Memory.flushed m = true) (hv : v.flushed = true) :
    Memory.flushed (memPut m i v) = true := by
  unfold Memory.flushed at *
  induction m with
  | nil => unfold memPut; split <;> simp [hv]
  | cons c t ih =>
    obtain ⟨k, w⟩ := c
    rw [List.all_cons, Bool.and_eq_true] at h
    unfold memPut
    split_ifs <;> simp [h.1, h.2, hv, ih h.2]

theorem memWrite_flushed (cap : Nat) {m : Memory NUM} (i : Int) (v : NUM) (h : Memory.flushed m = true) :
    Memory.flushed (memWrite cap m i v) = true := memPut_flushed _ h (ftz_flushed v)

end Sys2Proof.Machine
end

