-- ==== Sys2Proof/Laws/State.lean ====
section
/-! SUPPORT. What each update of the state leaves in each field: one lemma per field per update, so that no proof unfolds
a record update. -/

namespace Sys2Proof.Machine

variable {N : Type}

/-! ## The ports (R110, R116, R117) -/

@[simp] theorem State.Of.respond_e0 (s : State.Of N) (hi lo : BitVec 32) : (s.respond hi lo).e0 = s.e0 := by cases s; rfl
@[simp] theorem State.Of.respond_e1 (s : State.Of N) (hi lo : BitVec 32) : (s.respond hi lo).e1 = s.e1 := by cases s; rfl
@[simp] theorem State.Of.respond_e2 (s : State.Of N) (hi lo : BitVec 32) : (s.respond hi lo).e2 = s.e2 := by cases s; rfl
@[simp] theorem State.Of.respond_e3 (s : State.Of N) (hi lo : BitVec 32) : (s.respond hi lo).e3 = s.e3 := by cases s; rfl
@[simp] theorem State.Of.respond_e4 (s : State.Of N) (hi lo : BitVec 32) : (s.respond hi lo).e4 = s.e4 := by cases s; rfl
@[simp] theorem State.Of.respond_e5 (s : State.Of N) (hi lo : BitVec 32) : (s.respond hi lo).e5 = s.e5 := by cases s; rfl
@[simp] theorem State.Of.respond_e6 (s : State.Of N) (hi lo : BitVec 32) : (s.respond hi lo).e6 = s.e6 := by cases s; rfl
@[simp] theorem State.Of.respond_e7 (s : State.Of N) (hi lo : BitVec 32) : (s.respond hi lo).e7 = s.e7 := by cases s; rfl
@[simp] theorem State.Of.respond_e8 (s : State.Of N) (hi lo : BitVec 32) : (s.respond hi lo).e8 = s.e8 := by cases s; rfl
@[simp] theorem State.Of.respond_e9 (s : State.Of N) (hi lo : BitVec 32) : (s.respond hi lo).e9 = s.e9 := by cases s; rfl
@[simp] theorem State.Of.respond_e10 (s : State.Of N) (hi lo : BitVec 32) : (s.respond hi lo).e10 = s.e10 := by cases s; rfl
@[simp] theorem State.Of.respond_e11 (s : State.Of N) (hi lo : BitVec 32) : (s.respond hi lo).e11 = s.e11 := by cases s; rfl
@[simp] theorem State.Of.respond_adsr (s : State.Of N) (hi lo : BitVec 32) : (s.respond hi lo).adsr = s.adsr := by cases s; rfl
@[simp] theorem State.Of.respond_ad (s : State.Of N) (hi lo : BitVec 32) : (s.respond hi lo).ad = s.ad := by cases s; rfl
@[simp] theorem State.Of.respond_lfo (s : State.Of N) (hi lo : BitVec 32) : (s.respond hi lo).lfo = s.lfo := by cases s; rfl
@[simp] theorem State.Of.respond_flt (s : State.Of N) (hi lo : BitVec 32) : (s.respond hi lo).flt = s.flt := by cases s; rfl
@[simp] theorem State.Of.respond_dly (s : State.Of N) (hi lo : BitVec 32) : (s.respond hi lo).dly = s.dly := by cases s; rfl
@[simp] theorem State.Of.respond_cho (s : State.Of N) (hi lo : BitVec 32) : (s.respond hi lo).cho = s.cho := by cases s; rfl
@[simp] theorem State.Of.respond_rev (s : State.Of N) (hi lo : BitVec 32) : (s.respond hi lo).rev = s.rev := by cases s; rfl
@[simp] theorem State.Of.respond_pipe (s : State.Of N) (hi lo : BitVec 32) : (s.respond hi lo).pipe = s.pipe := by cases s; rfl
@[simp] theorem State.Of.respond_cmds (s : State.Of N) (hi lo : BitVec 32) : (s.respond hi lo).cmds = s.cmds := by cases s; rfl
@[simp] theorem State.Of.respond_responses (s : State.Of N) (hi lo : BitVec 32) : (s.respond hi lo).responses = s.responses ++ [wordPair hi lo] := by cases s; rfl
@[simp] theorem State.Of.respond_audio (s : State.Of N) (hi lo : BitVec 32) : (s.respond hi lo).audio = s.audio := by cases s; rfl

@[simp] theorem State.Of.emit_e0 (cfg : Config.Parameters N) (s : State.Of N) (y : Stereo N) : (s.emit y cfg).e0 = s.e0 := by cases s; rfl
@[simp] theorem State.Of.emit_e1 (cfg : Config.Parameters N) (s : State.Of N) (y : Stereo N) : (s.emit y cfg).e1 = s.e1 := by cases s; rfl
@[simp] theorem State.Of.emit_e2 (cfg : Config.Parameters N) (s : State.Of N) (y : Stereo N) : (s.emit y cfg).e2 = s.e2 := by cases s; rfl
@[simp] theorem State.Of.emit_e3 (cfg : Config.Parameters N) (s : State.Of N) (y : Stereo N) : (s.emit y cfg).e3 = s.e3 := by cases s; rfl
@[simp] theorem State.Of.emit_e4 (cfg : Config.Parameters N) (s : State.Of N) (y : Stereo N) : (s.emit y cfg).e4 = s.e4 := by cases s; rfl
@[simp] theorem State.Of.emit_e5 (cfg : Config.Parameters N) (s : State.Of N) (y : Stereo N) : (s.emit y cfg).e5 = s.e5 := by cases s; rfl
@[simp] theorem State.Of.emit_e6 (cfg : Config.Parameters N) (s : State.Of N) (y : Stereo N) : (s.emit y cfg).e6 = s.e6 := by cases s; rfl
@[simp] theorem State.Of.emit_e7 (cfg : Config.Parameters N) (s : State.Of N) (y : Stereo N) : (s.emit y cfg).e7 = s.e7 := by cases s; rfl
@[simp] theorem State.Of.emit_e8 (cfg : Config.Parameters N) (s : State.Of N) (y : Stereo N) : (s.emit y cfg).e8 = s.e8 := by cases s; rfl
@[simp] theorem State.Of.emit_e9 (cfg : Config.Parameters N) (s : State.Of N) (y : Stereo N) : (s.emit y cfg).e9 = s.e9 := by cases s; rfl
@[simp] theorem State.Of.emit_e10 (cfg : Config.Parameters N) (s : State.Of N) (y : Stereo N) : (s.emit y cfg).e10 = s.e10 := by cases s; rfl
@[simp] theorem State.Of.emit_e11 (cfg : Config.Parameters N) (s : State.Of N) (y : Stereo N) : (s.emit y cfg).e11 = s.e11 := by cases s; rfl
@[simp] theorem State.Of.emit_adsr (cfg : Config.Parameters N) (s : State.Of N) (y : Stereo N) : (s.emit y cfg).adsr = s.adsr := by cases s; rfl
@[simp] theorem State.Of.emit_ad (cfg : Config.Parameters N) (s : State.Of N) (y : Stereo N) : (s.emit y cfg).ad = s.ad := by cases s; rfl
@[simp] theorem State.Of.emit_lfo (cfg : Config.Parameters N) (s : State.Of N) (y : Stereo N) : (s.emit y cfg).lfo = s.lfo := by cases s; rfl
@[simp] theorem State.Of.emit_flt (cfg : Config.Parameters N) (s : State.Of N) (y : Stereo N) : (s.emit y cfg).flt = s.flt := by cases s; rfl
@[simp] theorem State.Of.emit_dly (cfg : Config.Parameters N) (s : State.Of N) (y : Stereo N) : (s.emit y cfg).dly = s.dly := by cases s; rfl
@[simp] theorem State.Of.emit_cho (cfg : Config.Parameters N) (s : State.Of N) (y : Stereo N) : (s.emit y cfg).cho = s.cho := by cases s; rfl
@[simp] theorem State.Of.emit_rev (cfg : Config.Parameters N) (s : State.Of N) (y : Stereo N) : (s.emit y cfg).rev = s.rev := by cases s; rfl
@[simp] theorem State.Of.emit_pipe (cfg : Config.Parameters N) (s : State.Of N) (y : Stereo N) : (s.emit y cfg).pipe = s.pipe := by cases s; rfl
@[simp] theorem State.Of.emit_cmds (cfg : Config.Parameters N) (s : State.Of N) (y : Stereo N) : (s.emit y cfg).cmds = s.cmds := by cases s; rfl
@[simp] theorem State.Of.emit_responses (cfg : Config.Parameters N) (s : State.Of N) (y : Stereo N) : (s.emit y cfg).responses = s.responses := by cases s; rfl
@[simp] theorem State.Of.emit_audio (cfg : Config.Parameters N) (s : State.Of N) (y : Stereo N) : (s.emit y cfg).audio = s.audio ++ [wordPair (cfg.word y.r) (cfg.word y.l)] := by cases s; rfl

/-! ## The operations of engine `k`: everything but the engine (R60) -/

@[simp] theorem State.Of.resetEngine_adsr (cfg : Config.Parameters N) (s : State.Of N) (k : Engine) : (s.resetEngine cfg k).adsr = s.adsr := by cases s; cases k <;> rfl
@[simp] theorem State.Of.resetEngine_ad (cfg : Config.Parameters N) (s : State.Of N) (k : Engine) : (s.resetEngine cfg k).ad = s.ad := by cases s; cases k <;> rfl
@[simp] theorem State.Of.resetEngine_lfo (cfg : Config.Parameters N) (s : State.Of N) (k : Engine) : (s.resetEngine cfg k).lfo = s.lfo := by cases s; cases k <;> rfl
@[simp] theorem State.Of.resetEngine_flt (cfg : Config.Parameters N) (s : State.Of N) (k : Engine) : (s.resetEngine cfg k).flt = s.flt := by cases s; cases k <;> rfl
@[simp] theorem State.Of.resetEngine_dly (cfg : Config.Parameters N) (s : State.Of N) (k : Engine) : (s.resetEngine cfg k).dly = s.dly := by cases s; cases k <;> rfl
@[simp] theorem State.Of.resetEngine_cho (cfg : Config.Parameters N) (s : State.Of N) (k : Engine) : (s.resetEngine cfg k).cho = s.cho := by cases s; cases k <;> rfl
@[simp] theorem State.Of.resetEngine_rev (cfg : Config.Parameters N) (s : State.Of N) (k : Engine) : (s.resetEngine cfg k).rev = s.rev := by cases s; cases k <;> rfl
@[simp] theorem State.Of.resetEngine_pipe (cfg : Config.Parameters N) (s : State.Of N) (k : Engine) : (s.resetEngine cfg k).pipe = s.pipe := by cases s; cases k <;> rfl
@[simp] theorem State.Of.resetEngine_cmds (cfg : Config.Parameters N) (s : State.Of N) (k : Engine) : (s.resetEngine cfg k).cmds = s.cmds := by cases s; cases k <;> rfl
@[simp] theorem State.Of.resetEngine_responses (cfg : Config.Parameters N) (s : State.Of N) (k : Engine) : (s.resetEngine cfg k).responses = s.responses := by cases s; cases k <;> rfl
@[simp] theorem State.Of.resetEngine_audio (cfg : Config.Parameters N) (s : State.Of N) (k : Engine) : (s.resetEngine cfg k).audio = s.audio := by cases s; cases k <;> rfl

@[simp] theorem State.Of.programEngine_adsr (cfg : Config.Parameters N) (s : State.Of N) (f h t m : N) (k : Engine) : (s.programEngine cfg f h t m k).adsr = s.adsr := by cases s; cases k <;> rfl
@[simp] theorem State.Of.programEngine_ad (cfg : Config.Parameters N) (s : State.Of N) (f h t m : N) (k : Engine) : (s.programEngine cfg f h t m k).ad = s.ad := by cases s; cases k <;> rfl
@[simp] theorem State.Of.programEngine_lfo (cfg : Config.Parameters N) (s : State.Of N) (f h t m : N) (k : Engine) : (s.programEngine cfg f h t m k).lfo = s.lfo := by cases s; cases k <;> rfl
@[simp] theorem State.Of.programEngine_flt (cfg : Config.Parameters N) (s : State.Of N) (f h t m : N) (k : Engine) : (s.programEngine cfg f h t m k).flt = s.flt := by cases s; cases k <;> rfl
@[simp] theorem State.Of.programEngine_dly (cfg : Config.Parameters N) (s : State.Of N) (f h t m : N) (k : Engine) : (s.programEngine cfg f h t m k).dly = s.dly := by cases s; cases k <;> rfl
@[simp] theorem State.Of.programEngine_cho (cfg : Config.Parameters N) (s : State.Of N) (f h t m : N) (k : Engine) : (s.programEngine cfg f h t m k).cho = s.cho := by cases s; cases k <;> rfl
@[simp] theorem State.Of.programEngine_rev (cfg : Config.Parameters N) (s : State.Of N) (f h t m : N) (k : Engine) : (s.programEngine cfg f h t m k).rev = s.rev := by cases s; cases k <;> rfl
@[simp] theorem State.Of.programEngine_pipe (cfg : Config.Parameters N) (s : State.Of N) (f h t m : N) (k : Engine) : (s.programEngine cfg f h t m k).pipe = s.pipe := by cases s; cases k <;> rfl
@[simp] theorem State.Of.programEngine_cmds (cfg : Config.Parameters N) (s : State.Of N) (f h t m : N) (k : Engine) : (s.programEngine cfg f h t m k).cmds = s.cmds := by cases s; cases k <;> rfl
@[simp] theorem State.Of.programEngine_responses (cfg : Config.Parameters N) (s : State.Of N) (f h t m : N) (k : Engine) : (s.programEngine cfg f h t m k).responses = s.responses := by cases s; cases k <;> rfl
@[simp] theorem State.Of.programEngine_audio (cfg : Config.Parameters N) (s : State.Of N) (f h t m : N) (k : Engine) : (s.programEngine cfg f h t m k).audio = s.audio := by cases s; cases k <;> rfl

@[simp] theorem State.Of.engineAdvance_adsr [DecidableEq N] (cfg : Config.Parameters N) (s : State.Of N) (k : Engine) : (s.engineAdvance cfg k).adsr = s.adsr := by cases s; cases k <;> rfl
@[simp] theorem State.Of.engineAdvance_ad [DecidableEq N] (cfg : Config.Parameters N) (s : State.Of N) (k : Engine) : (s.engineAdvance cfg k).ad = s.ad := by cases s; cases k <;> rfl
@[simp] theorem State.Of.engineAdvance_lfo [DecidableEq N] (cfg : Config.Parameters N) (s : State.Of N) (k : Engine) : (s.engineAdvance cfg k).lfo = s.lfo := by cases s; cases k <;> rfl
@[simp] theorem State.Of.engineAdvance_flt [DecidableEq N] (cfg : Config.Parameters N) (s : State.Of N) (k : Engine) : (s.engineAdvance cfg k).flt = s.flt := by cases s; cases k <;> rfl
@[simp] theorem State.Of.engineAdvance_dly [DecidableEq N] (cfg : Config.Parameters N) (s : State.Of N) (k : Engine) : (s.engineAdvance cfg k).dly = s.dly := by cases s; cases k <;> rfl
@[simp] theorem State.Of.engineAdvance_cho [DecidableEq N] (cfg : Config.Parameters N) (s : State.Of N) (k : Engine) : (s.engineAdvance cfg k).cho = s.cho := by cases s; cases k <;> rfl
@[simp] theorem State.Of.engineAdvance_rev [DecidableEq N] (cfg : Config.Parameters N) (s : State.Of N) (k : Engine) : (s.engineAdvance cfg k).rev = s.rev := by cases s; cases k <;> rfl
@[simp] theorem State.Of.engineAdvance_pipe [DecidableEq N] (cfg : Config.Parameters N) (s : State.Of N) (k : Engine) : (s.engineAdvance cfg k).pipe = s.pipe := by cases s; cases k <;> rfl
@[simp] theorem State.Of.engineAdvance_cmds [DecidableEq N] (cfg : Config.Parameters N) (s : State.Of N) (k : Engine) : (s.engineAdvance cfg k).cmds = s.cmds := by cases s; cases k <;> rfl
@[simp] theorem State.Of.engineAdvance_responses [DecidableEq N] (cfg : Config.Parameters N) (s : State.Of N) (k : Engine) : (s.engineAdvance cfg k).responses = s.responses := by cases s; cases k <;> rfl
@[simp] theorem State.Of.engineAdvance_audio [DecidableEq N] (cfg : Config.Parameters N) (s : State.Of N) (k : Engine) : (s.engineAdvance cfg k).audio = s.audio := by cases s; cases k <;> rfl

@[simp] theorem State.withRegs_adsr (s : State) (k : Engine) (r : EngineRegs NUM) : (s.withRegs k r).adsr = s.adsr := by cases s; cases k <;> rfl
@[simp] theorem State.withRegs_ad (s : State) (k : Engine) (r : EngineRegs NUM) : (s.withRegs k r).ad = s.ad := by cases s; cases k <;> rfl
@[simp] theorem State.withRegs_lfo (s : State) (k : Engine) (r : EngineRegs NUM) : (s.withRegs k r).lfo = s.lfo := by cases s; cases k <;> rfl
@[simp] theorem State.withRegs_flt (s : State) (k : Engine) (r : EngineRegs NUM) : (s.withRegs k r).flt = s.flt := by cases s; cases k <;> rfl
@[simp] theorem State.withRegs_dly (s : State) (k : Engine) (r : EngineRegs NUM) : (s.withRegs k r).dly = s.dly := by cases s; cases k <;> rfl
@[simp] theorem State.withRegs_cho (s : State) (k : Engine) (r : EngineRegs NUM) : (s.withRegs k r).cho = s.cho := by cases s; cases k <;> rfl
@[simp] theorem State.withRegs_rev (s : State) (k : Engine) (r : EngineRegs NUM) : (s.withRegs k r).rev = s.rev := by cases s; cases k <;> rfl
@[simp] theorem State.withRegs_pipe (s : State) (k : Engine) (r : EngineRegs NUM) : (s.withRegs k r).pipe = s.pipe := by cases s; cases k <;> rfl
@[simp] theorem State.withRegs_cmds (s : State) (k : Engine) (r : EngineRegs NUM) : (s.withRegs k r).cmds = s.cmds := by cases s; cases k <;> rfl
@[simp] theorem State.withRegs_responses (s : State) (k : Engine) (r : EngineRegs NUM) : (s.withRegs k r).responses = s.responses := by cases s; cases k <;> rfl
@[simp] theorem State.withRegs_audio (s : State) (k : Engine) (r : EngineRegs NUM) : (s.withRegs k r).audio = s.audio := by cases s; cases k <;> rfl

@[simp] theorem State.copyEngine_adsr (s : State) (k : Engine) (src : State) : (s.copyEngine k src).adsr = s.adsr := by cases s; cases k <;> rfl
@[simp] theorem State.copyEngine_ad (s : State) (k : Engine) (src : State) : (s.copyEngine k src).ad = s.ad := by cases s; cases k <;> rfl
@[simp] theorem State.copyEngine_lfo (s : State) (k : Engine) (src : State) : (s.copyEngine k src).lfo = s.lfo := by cases s; cases k <;> rfl
@[simp] theorem State.copyEngine_flt (s : State) (k : Engine) (src : State) : (s.copyEngine k src).flt = s.flt := by cases s; cases k <;> rfl
@[simp] theorem State.copyEngine_dly (s : State) (k : Engine) (src : State) : (s.copyEngine k src).dly = s.dly := by cases s; cases k <;> rfl
@[simp] theorem State.copyEngine_cho (s : State) (k : Engine) (src : State) : (s.copyEngine k src).cho = s.cho := by cases s; cases k <;> rfl
@[simp] theorem State.copyEngine_rev (s : State) (k : Engine) (src : State) : (s.copyEngine k src).rev = s.rev := by cases s; cases k <;> rfl
@[simp] theorem State.copyEngine_pipe (s : State) (k : Engine) (src : State) : (s.copyEngine k src).pipe = s.pipe := by cases s; cases k <;> rfl
@[simp] theorem State.copyEngine_cmds (s : State) (k : Engine) (src : State) : (s.copyEngine k src).cmds = s.cmds := by cases s; cases k <;> rfl
@[simp] theorem State.copyEngine_responses (s : State) (k : Engine) (src : State) : (s.copyEngine k src).responses = s.responses := by cases s; cases k <;> rfl
@[simp] theorem State.copyEngine_audio (s : State) (k : Engine) (src : State) : (s.copyEngine k src).audio = s.audio := by cases s; cases k <;> rfl

/-! ## The stages of a block and of a sample tick (R490, R491, R500 to R508) -/

@[simp] theorem State.Of.latchParams_e0 (cfg : Config.Parameters N) (s : State.Of N) : (s.latchParams cfg).e0 = s.e0 := by cases s; rfl
@[simp] theorem State.Of.latchParams_e1 (cfg : Config.Parameters N) (s : State.Of N) : (s.latchParams cfg).e1 = s.e1 := by cases s; rfl
@[simp] theorem State.Of.latchParams_e2 (cfg : Config.Parameters N) (s : State.Of N) : (s.latchParams cfg).e2 = s.e2 := by cases s; rfl
@[simp] theorem State.Of.latchParams_e3 (cfg : Config.Parameters N) (s : State.Of N) : (s.latchParams cfg).e3 = s.e3 := by cases s; rfl
@[simp] theorem State.Of.latchParams_e4 (cfg : Config.Parameters N) (s : State.Of N) : (s.latchParams cfg).e4 = s.e4 := by cases s; rfl
@[simp] theorem State.Of.latchParams_e5 (cfg : Config.Parameters N) (s : State.Of N) : (s.latchParams cfg).e5 = s.e5 := by cases s; rfl
@[simp] theorem State.Of.latchParams_e6 (cfg : Config.Parameters N) (s : State.Of N) : (s.latchParams cfg).e6 = s.e6 := by cases s; rfl
@[simp] theorem State.Of.latchParams_e7 (cfg : Config.Parameters N) (s : State.Of N) : (s.latchParams cfg).e7 = s.e7 := by cases s; rfl
@[simp] theorem State.Of.latchParams_e8 (cfg : Config.Parameters N) (s : State.Of N) : (s.latchParams cfg).e8 = s.e8 := by cases s; rfl
@[simp] theorem State.Of.latchParams_e9 (cfg : Config.Parameters N) (s : State.Of N) : (s.latchParams cfg).e9 = s.e9 := by cases s; rfl
@[simp] theorem State.Of.latchParams_e10 (cfg : Config.Parameters N) (s : State.Of N) : (s.latchParams cfg).e10 = s.e10 := by cases s; rfl
@[simp] theorem State.Of.latchParams_e11 (cfg : Config.Parameters N) (s : State.Of N) : (s.latchParams cfg).e11 = s.e11 := by cases s; rfl
@[simp] theorem State.Of.latchParams_adsr (cfg : Config.Parameters N) (s : State.Of N) : (s.latchParams cfg).adsr = s.adsr := by cases s; rfl
@[simp] theorem State.Of.latchParams_ad (cfg : Config.Parameters N) (s : State.Of N) : (s.latchParams cfg).ad = s.ad := by cases s; rfl
@[simp] theorem State.Of.latchParams_lfo (cfg : Config.Parameters N) (s : State.Of N) : (s.latchParams cfg).lfo = s.lfo := by cases s; rfl
@[simp] theorem State.Of.latchParams_flt (cfg : Config.Parameters N) (s : State.Of N) : (s.latchParams cfg).flt = s.flt := by cases s; rfl
@[simp] theorem State.Of.latchParams_dly (cfg : Config.Parameters N) (s : State.Of N) : (s.latchParams cfg).dly = s.dly := by cases s; rfl
@[simp] theorem State.Of.latchParams_cho (cfg : Config.Parameters N) (s : State.Of N) : (s.latchParams cfg).cho = s.cho := by cases s; rfl
@[simp] theorem State.Of.latchParams_rev (cfg : Config.Parameters N) (s : State.Of N) : (s.latchParams cfg).rev = s.rev := by cases s; rfl
@[simp] theorem State.Of.latchParams_pipe (cfg : Config.Parameters N) (s : State.Of N) : (s.latchParams cfg).pipe = { s.pipe with pl := latchOf cfg s.pipe.p } := by cases s; rfl
@[simp] theorem State.Of.latchParams_cmds (cfg : Config.Parameters N) (s : State.Of N) : (s.latchParams cfg).cmds = s.cmds := by cases s; rfl
@[simp] theorem State.Of.latchParams_responses (cfg : Config.Parameters N) (s : State.Of N) : (s.latchParams cfg).responses = s.responses := by cases s; rfl
@[simp] theorem State.Of.latchParams_audio (cfg : Config.Parameters N) (s : State.Of N) : (s.latchParams cfg).audio = s.audio := by cases s; rfl

@[simp] theorem State.Of.programUnits_e0 (cfg : Config.Parameters N) (s : State.Of N) : (s.programUnits cfg).e0 = s.e0 := by cases s; rfl
@[simp] theorem State.Of.programUnits_e1 (cfg : Config.Parameters N) (s : State.Of N) : (s.programUnits cfg).e1 = s.e1 := by cases s; rfl
@[simp] theorem State.Of.programUnits_e2 (cfg : Config.Parameters N) (s : State.Of N) : (s.programUnits cfg).e2 = s.e2 := by cases s; rfl
@[simp] theorem State.Of.programUnits_e3 (cfg : Config.Parameters N) (s : State.Of N) : (s.programUnits cfg).e3 = s.e3 := by cases s; rfl
@[simp] theorem State.Of.programUnits_e4 (cfg : Config.Parameters N) (s : State.Of N) : (s.programUnits cfg).e4 = s.e4 := by cases s; rfl
@[simp] theorem State.Of.programUnits_e5 (cfg : Config.Parameters N) (s : State.Of N) : (s.programUnits cfg).e5 = s.e5 := by cases s; rfl
@[simp] theorem State.Of.programUnits_e6 (cfg : Config.Parameters N) (s : State.Of N) : (s.programUnits cfg).e6 = s.e6 := by cases s; rfl
@[simp] theorem State.Of.programUnits_e7 (cfg : Config.Parameters N) (s : State.Of N) : (s.programUnits cfg).e7 = s.e7 := by cases s; rfl
@[simp] theorem State.Of.programUnits_e8 (cfg : Config.Parameters N) (s : State.Of N) : (s.programUnits cfg).e8 = s.e8 := by cases s; rfl
@[simp] theorem State.Of.programUnits_e9 (cfg : Config.Parameters N) (s : State.Of N) : (s.programUnits cfg).e9 = s.e9 := by cases s; rfl
@[simp] theorem State.Of.programUnits_e10 (cfg : Config.Parameters N) (s : State.Of N) : (s.programUnits cfg).e10 = s.e10 := by cases s; rfl
@[simp] theorem State.Of.programUnits_e11 (cfg : Config.Parameters N) (s : State.Of N) : (s.programUnits cfg).e11 = s.e11 := by cases s; rfl
@[simp] theorem State.Of.programUnits_pipe (cfg : Config.Parameters N) (s : State.Of N) : (s.programUnits cfg).pipe = s.pipe := by cases s; rfl
@[simp] theorem State.Of.programUnits_cmds (cfg : Config.Parameters N) (s : State.Of N) : (s.programUnits cfg).cmds = s.cmds := by cases s; rfl
@[simp] theorem State.Of.programUnits_responses (cfg : Config.Parameters N) (s : State.Of N) : (s.programUnits cfg).responses = s.responses := by cases s; rfl
@[simp] theorem State.Of.programUnits_audio (cfg : Config.Parameters N) (s : State.Of N) : (s.programUnits cfg).audio = s.audio := by cases s; rfl

@[simp] theorem State.Of.startBlock_e0 (cfg : Config.Parameters N) (s : State.Of N) : (s.startBlock cfg).e0 = s.e0 := by cases s; rfl
@[simp] theorem State.Of.startBlock_e1 (cfg : Config.Parameters N) (s : State.Of N) : (s.startBlock cfg).e1 = s.e1 := by cases s; rfl
@[simp] theorem State.Of.startBlock_e2 (cfg : Config.Parameters N) (s : State.Of N) : (s.startBlock cfg).e2 = s.e2 := by cases s; rfl
@[simp] theorem State.Of.startBlock_e3 (cfg : Config.Parameters N) (s : State.Of N) : (s.startBlock cfg).e3 = s.e3 := by cases s; rfl
@[simp] theorem State.Of.startBlock_e4 (cfg : Config.Parameters N) (s : State.Of N) : (s.startBlock cfg).e4 = s.e4 := by cases s; rfl
@[simp] theorem State.Of.startBlock_e5 (cfg : Config.Parameters N) (s : State.Of N) : (s.startBlock cfg).e5 = s.e5 := by cases s; rfl
@[simp] theorem State.Of.startBlock_e6 (cfg : Config.Parameters N) (s : State.Of N) : (s.startBlock cfg).e6 = s.e6 := by cases s; rfl
@[simp] theorem State.Of.startBlock_e7 (cfg : Config.Parameters N) (s : State.Of N) : (s.startBlock cfg).e7 = s.e7 := by cases s; rfl
@[simp] theorem State.Of.startBlock_e8 (cfg : Config.Parameters N) (s : State.Of N) : (s.startBlock cfg).e8 = s.e8 := by cases s; rfl
@[simp] theorem State.Of.startBlock_e9 (cfg : Config.Parameters N) (s : State.Of N) : (s.startBlock cfg).e9 = s.e9 := by cases s; rfl
@[simp] theorem State.Of.startBlock_e10 (cfg : Config.Parameters N) (s : State.Of N) : (s.startBlock cfg).e10 = s.e10 := by cases s; rfl
@[simp] theorem State.Of.startBlock_e11 (cfg : Config.Parameters N) (s : State.Of N) : (s.startBlock cfg).e11 = s.e11 := by cases s; rfl
@[simp] theorem State.Of.startBlock_pipe (cfg : Config.Parameters N) (s : State.Of N) : (s.startBlock cfg).pipe = { s.pipe with pl := latchOf cfg s.pipe.p } := by cases s; rfl
@[simp] theorem State.Of.startBlock_cmds (cfg : Config.Parameters N) (s : State.Of N) : (s.startBlock cfg).cmds = s.cmds := by cases s; rfl
@[simp] theorem State.Of.startBlock_responses (cfg : Config.Parameters N) (s : State.Of N) : (s.startBlock cfg).responses = s.responses := by cases s; rfl
@[simp] theorem State.Of.startBlock_audio (cfg : Config.Parameters N) (s : State.Of N) : (s.startBlock cfg).audio = s.audio := by cases s; rfl

@[simp] theorem State.Of.tickModulators_e0 (cfg : Config.Parameters N) (s : State.Of N) : (s.tickModulators cfg).e0 = s.e0 := by cases s; rfl
@[simp] theorem State.Of.tickModulators_e1 (cfg : Config.Parameters N) (s : State.Of N) : (s.tickModulators cfg).e1 = s.e1 := by cases s; rfl
@[simp] theorem State.Of.tickModulators_e2 (cfg : Config.Parameters N) (s : State.Of N) : (s.tickModulators cfg).e2 = s.e2 := by cases s; rfl
@[simp] theorem State.Of.tickModulators_e3 (cfg : Config.Parameters N) (s : State.Of N) : (s.tickModulators cfg).e3 = s.e3 := by cases s; rfl
@[simp] theorem State.Of.tickModulators_e4 (cfg : Config.Parameters N) (s : State.Of N) : (s.tickModulators cfg).e4 = s.e4 := by cases s; rfl
@[simp] theorem State.Of.tickModulators_e5 (cfg : Config.Parameters N) (s : State.Of N) : (s.tickModulators cfg).e5 = s.e5 := by cases s; rfl
@[simp] theorem State.Of.tickModulators_e6 (cfg : Config.Parameters N) (s : State.Of N) : (s.tickModulators cfg).e6 = s.e6 := by cases s; rfl
@[simp] theorem State.Of.tickModulators_e7 (cfg : Config.Parameters N) (s : State.Of N) : (s.tickModulators cfg).e7 = s.e7 := by cases s; rfl
@[simp] theorem State.Of.tickModulators_e8 (cfg : Config.Parameters N) (s : State.Of N) : (s.tickModulators cfg).e8 = s.e8 := by cases s; rfl
@[simp] theorem State.Of.tickModulators_e9 (cfg : Config.Parameters N) (s : State.Of N) : (s.tickModulators cfg).e9 = s.e9 := by cases s; rfl
@[simp] theorem State.Of.tickModulators_e10 (cfg : Config.Parameters N) (s : State.Of N) : (s.tickModulators cfg).e10 = s.e10 := by cases s; rfl
@[simp] theorem State.Of.tickModulators_e11 (cfg : Config.Parameters N) (s : State.Of N) : (s.tickModulators cfg).e11 = s.e11 := by cases s; rfl
@[simp] theorem State.Of.tickModulators_adsr (cfg : Config.Parameters N) (s : State.Of N) : (s.tickModulators cfg).adsr = s.adsr.process cfg := by cases s; rfl
@[simp] theorem State.Of.tickModulators_ad (cfg : Config.Parameters N) (s : State.Of N) : (s.tickModulators cfg).ad = s.ad.process cfg := by cases s; rfl
@[simp] theorem State.Of.tickModulators_lfo (cfg : Config.Parameters N) (s : State.Of N) : (s.tickModulators cfg).lfo = s.lfo.process cfg := by cases s; rfl
@[simp] theorem State.Of.tickModulators_flt (cfg : Config.Parameters N) (s : State.Of N) : (s.tickModulators cfg).flt = s.flt := by cases s; rfl
@[simp] theorem State.Of.tickModulators_dly (cfg : Config.Parameters N) (s : State.Of N) : (s.tickModulators cfg).dly = s.dly := by cases s; rfl
@[simp] theorem State.Of.tickModulators_cho (cfg : Config.Parameters N) (s : State.Of N) : (s.tickModulators cfg).cho = s.cho := by cases s; rfl
@[simp] theorem State.Of.tickModulators_rev (cfg : Config.Parameters N) (s : State.Of N) : (s.tickModulators cfg).rev = s.rev := by cases s; rfl
@[simp] theorem State.Of.tickModulators_pipe (cfg : Config.Parameters N) (s : State.Of N) : (s.tickModulators cfg).pipe = { s.pipe with adLevel := cfg.ftz (s.ad.process cfg).level } := by cases s; rfl
@[simp] theorem State.Of.tickModulators_cmds (cfg : Config.Parameters N) (s : State.Of N) : (s.tickModulators cfg).cmds = s.cmds := by cases s; rfl
@[simp] theorem State.Of.tickModulators_responses (cfg : Config.Parameters N) (s : State.Of N) : (s.tickModulators cfg).responses = s.responses := by cases s; rfl
@[simp] theorem State.Of.tickModulators_audio (cfg : Config.Parameters N) (s : State.Of N) : (s.tickModulators cfg).audio = s.audio := by cases s; rfl

@[simp] theorem State.Of.tickEffects_e0 [DecidableEq N] (cfg : Config.Parameters N) (s : State.Of N) (x : Stereo N) : (s.tickEffects cfg x).e0 = s.e0 := by cases s; rfl
@[simp] theorem State.Of.tickEffects_e1 [DecidableEq N] (cfg : Config.Parameters N) (s : State.Of N) (x : Stereo N) : (s.tickEffects cfg x).e1 = s.e1 := by cases s; rfl
@[simp] theorem State.Of.tickEffects_e2 [DecidableEq N] (cfg : Config.Parameters N) (s : State.Of N) (x : Stereo N) : (s.tickEffects cfg x).e2 = s.e2 := by cases s; rfl
@[simp] theorem State.Of.tickEffects_e3 [DecidableEq N] (cfg : Config.Parameters N) (s : State.Of N) (x : Stereo N) : (s.tickEffects cfg x).e3 = s.e3 := by cases s; rfl
@[simp] theorem State.Of.tickEffects_e4 [DecidableEq N] (cfg : Config.Parameters N) (s : State.Of N) (x : Stereo N) : (s.tickEffects cfg x).e4 = s.e4 := by cases s; rfl
@[simp] theorem State.Of.tickEffects_e5 [DecidableEq N] (cfg : Config.Parameters N) (s : State.Of N) (x : Stereo N) : (s.tickEffects cfg x).e5 = s.e5 := by cases s; rfl
@[simp] theorem State.Of.tickEffects_e6 [DecidableEq N] (cfg : Config.Parameters N) (s : State.Of N) (x : Stereo N) : (s.tickEffects cfg x).e6 = s.e6 := by cases s; rfl
@[simp] theorem State.Of.tickEffects_e7 [DecidableEq N] (cfg : Config.Parameters N) (s : State.Of N) (x : Stereo N) : (s.tickEffects cfg x).e7 = s.e7 := by cases s; rfl
@[simp] theorem State.Of.tickEffects_e8 [DecidableEq N] (cfg : Config.Parameters N) (s : State.Of N) (x : Stereo N) : (s.tickEffects cfg x).e8 = s.e8 := by cases s; rfl
@[simp] theorem State.Of.tickEffects_e9 [DecidableEq N] (cfg : Config.Parameters N) (s : State.Of N) (x : Stereo N) : (s.tickEffects cfg x).e9 = s.e9 := by cases s; rfl
@[simp] theorem State.Of.tickEffects_e10 [DecidableEq N] (cfg : Config.Parameters N) (s : State.Of N) (x : Stereo N) : (s.tickEffects cfg x).e10 = s.e10 := by cases s; rfl
@[simp] theorem State.Of.tickEffects_e11 [DecidableEq N] (cfg : Config.Parameters N) (s : State.Of N) (x : Stereo N) : (s.tickEffects cfg x).e11 = s.e11 := by cases s; rfl
@[simp] theorem State.Of.tickEffects_adsr [DecidableEq N] (cfg : Config.Parameters N) (s : State.Of N) (x : Stereo N) : (s.tickEffects cfg x).adsr = s.adsr := by cases s; rfl
@[simp] theorem State.Of.tickEffects_ad [DecidableEq N] (cfg : Config.Parameters N) (s : State.Of N) (x : Stereo N) : (s.tickEffects cfg x).ad = s.ad := by cases s; rfl
@[simp] theorem State.Of.tickEffects_lfo [DecidableEq N] (cfg : Config.Parameters N) (s : State.Of N) (x : Stereo N) : (s.tickEffects cfg x).lfo = s.lfo := by cases s; rfl
@[simp] theorem State.Of.tickEffects_flt [DecidableEq N] (cfg : Config.Parameters N) (s : State.Of N) (x : Stereo N) : (s.tickEffects cfg x).flt = bothNext (Ladder.process cfg) s.flt x := by cases s; rfl
@[simp] theorem State.Of.tickEffects_dly [DecidableEq N] (cfg : Config.Parameters N) (s : State.Of N) (x : Stereo N) : (s.tickEffects cfg x).dly = bothNext (Delay.process cfg) s.dly (s.afterFilter cfg x) := by cases s; rfl
@[simp] theorem State.Of.tickEffects_cho [DecidableEq N] (cfg : Config.Parameters N) (s : State.Of N) (x : Stereo N) : (s.tickEffects cfg x).cho = bothNext (Chorus.process cfg) s.cho (s.afterDelay cfg x) := by cases s; rfl
@[simp] theorem State.Of.tickEffects_rev [DecidableEq N] (cfg : Config.Parameters N) (s : State.Of N) (x : Stereo N) : (s.tickEffects cfg x).rev = bothNext (Reverb.process cfg) s.rev (s.afterChorus cfg x) := by cases s; rfl
@[simp] theorem State.Of.tickEffects_pipe [DecidableEq N] (cfg : Config.Parameters N) (s : State.Of N) (x : Stereo N) : (s.tickEffects cfg x).pipe = s.pipe := by cases s; rfl
@[simp] theorem State.Of.tickEffects_cmds [DecidableEq N] (cfg : Config.Parameters N) (s : State.Of N) (x : Stereo N) : (s.tickEffects cfg x).cmds = s.cmds := by cases s; rfl
@[simp] theorem State.Of.tickEffects_responses [DecidableEq N] (cfg : Config.Parameters N) (s : State.Of N) (x : Stereo N) : (s.tickEffects cfg x).responses = s.responses := by cases s; rfl
@[simp] theorem State.Of.tickEffects_audio [DecidableEq N] (cfg : Config.Parameters N) (s : State.Of N) (x : Stereo N) : (s.tickEffects cfg x).audio = s.audio := by cases s; rfl

@[simp] theorem State.Of.tickSilence_e0 (cfg : Config.Parameters N) (s : State.Of N) (env : N) : (s.tickSilence cfg env).e0 = s.e0 := by
  unfold State.Of.tickSilence; dsimp only; split <;> rfl
@[simp] theorem State.Of.tickSilence_e1 (cfg : Config.Parameters N) (s : State.Of N) (env : N) : (s.tickSilence cfg env).e1 = s.e1 := by
  unfold State.Of.tickSilence; dsimp only; split <;> rfl
@[simp] theorem State.Of.tickSilence_e2 (cfg : Config.Parameters N) (s : State.Of N) (env : N) : (s.tickSilence cfg env).e2 = s.e2 := by
  unfold State.Of.tickSilence; dsimp only; split <;> rfl
@[simp] theorem State.Of.tickSilence_e3 (cfg : Config.Parameters N) (s : State.Of N) (env : N) : (s.tickSilence cfg env).e3 = s.e3 := by
  unfold State.Of.tickSilence; dsimp only; split <;> rfl
@[simp] theorem State.Of.tickSilence_e4 (cfg : Config.Parameters N) (s : State.Of N) (env : N) : (s.tickSilence cfg env).e4 = s.e4 := by
  unfold State.Of.tickSilence; dsimp only; split <;> rfl
@[simp] theorem State.Of.tickSilence_e5 (cfg : Config.Parameters N) (s : State.Of N) (env : N) : (s.tickSilence cfg env).e5 = s.e5 := by
  unfold State.Of.tickSilence; dsimp only; split <;> rfl
@[simp] theorem State.Of.tickSilence_e6 (cfg : Config.Parameters N) (s : State.Of N) (env : N) : (s.tickSilence cfg env).e6 = s.e6 := by
  unfold State.Of.tickSilence; dsimp only; split <;> rfl
@[simp] theorem State.Of.tickSilence_e7 (cfg : Config.Parameters N) (s : State.Of N) (env : N) : (s.tickSilence cfg env).e7 = s.e7 := by
  unfold State.Of.tickSilence; dsimp only; split <;> rfl
@[simp] theorem State.Of.tickSilence_e8 (cfg : Config.Parameters N) (s : State.Of N) (env : N) : (s.tickSilence cfg env).e8 = s.e8 := by
  unfold State.Of.tickSilence; dsimp only; split <;> rfl
@[simp] theorem State.Of.tickSilence_e9 (cfg : Config.Parameters N) (s : State.Of N) (env : N) : (s.tickSilence cfg env).e9 = s.e9 := by
  unfold State.Of.tickSilence; dsimp only; split <;> rfl
@[simp] theorem State.Of.tickSilence_e10 (cfg : Config.Parameters N) (s : State.Of N) (env : N) : (s.tickSilence cfg env).e10 = s.e10 := by
  unfold State.Of.tickSilence; dsimp only; split <;> rfl
@[simp] theorem State.Of.tickSilence_e11 (cfg : Config.Parameters N) (s : State.Of N) (env : N) : (s.tickSilence cfg env).e11 = s.e11 := by
  unfold State.Of.tickSilence; dsimp only; split <;> rfl
@[simp] theorem State.Of.tickSilence_adsr (cfg : Config.Parameters N) (s : State.Of N) (env : N) : (s.tickSilence cfg env).adsr = s.adsr := by
  unfold State.Of.tickSilence; dsimp only; split <;> rfl
@[simp] theorem State.Of.tickSilence_ad (cfg : Config.Parameters N) (s : State.Of N) (env : N) : (s.tickSilence cfg env).ad = s.ad := by
  unfold State.Of.tickSilence; dsimp only; split <;> rfl
@[simp] theorem State.Of.tickSilence_lfo (cfg : Config.Parameters N) (s : State.Of N) (env : N) : (s.tickSilence cfg env).lfo = s.lfo := by
  unfold State.Of.tickSilence; dsimp only; split <;> rfl
@[simp] theorem State.Of.tickSilence_flt (cfg : Config.Parameters N) (s : State.Of N) (env : N) : (s.tickSilence cfg env).flt = s.flt := by
  unfold State.Of.tickSilence; dsimp only; split <;> rfl
@[simp] theorem State.Of.tickSilence_rev (cfg : Config.Parameters N) (s : State.Of N) (env : N) : (s.tickSilence cfg env).rev = s.rev := by
  unfold State.Of.tickSilence; dsimp only; split <;> rfl
@[simp] theorem State.Of.tickSilence_cmds (cfg : Config.Parameters N) (s : State.Of N) (env : N) : (s.tickSilence cfg env).cmds = s.cmds := by
  unfold State.Of.tickSilence; dsimp only; split <;> rfl
@[simp] theorem State.Of.tickSilence_responses (cfg : Config.Parameters N) (s : State.Of N) (env : N) : (s.tickSilence cfg env).responses = s.responses := by
  unfold State.Of.tickSilence; dsimp only; split <;> rfl
@[simp] theorem State.Of.tickSilence_audio (cfg : Config.Parameters N) (s : State.Of N) (env : N) : (s.tickSilence cfg env).audio = s.audio := by
  unfold State.Of.tickSilence; dsimp only; split <;> rfl
@[simp] theorem State.Of.tickSilence_pipe (cfg : Config.Parameters N) (s : State.Of N) (env : N) :
    (s.tickSilence cfg env).pipe = { s.pipe with wasSilent := isSilent cfg env } := by
  unfold State.Of.tickSilence; dsimp only; split <;> rfl
@[simp] theorem State.Of.tickSilence_dly (cfg : Config.Parameters N) (s : State.Of N) (env : N) :
    (s.tickSilence cfg env).dly = if silenceEdge cfg s.pipe.wasSilent env then s.dly.reset cfg else s.dly := by
  unfold State.Of.tickSilence; dsimp only; split <;> rfl
@[simp] theorem State.Of.tickSilence_cho (cfg : Config.Parameters N) (s : State.Of N) (env : N) :
    (s.tickSilence cfg env).cho = if silenceEdge cfg s.pipe.wasSilent env then s.cho.reset cfg else s.cho := by
  unfold State.Of.tickSilence; dsimp only; split <;> rfl

@[simp] theorem State.Of.tickSelect_adsr (cfg : Config.Parameters N) (s : State.Of N) : (s.tickSelect cfg).adsr = s.adsr := by
  unfold State.Of.tickSelect; dsimp only; split <;> simp
@[simp] theorem State.Of.tickSelect_ad (cfg : Config.Parameters N) (s : State.Of N) : (s.tickSelect cfg).ad = s.ad := by
  unfold State.Of.tickSelect; dsimp only; split <;> simp
@[simp] theorem State.Of.tickSelect_lfo (cfg : Config.Parameters N) (s : State.Of N) : (s.tickSelect cfg).lfo = s.lfo := by
  unfold State.Of.tickSelect; dsimp only; split <;> simp
@[simp] theorem State.Of.tickSelect_flt (cfg : Config.Parameters N) (s : State.Of N) : (s.tickSelect cfg).flt = s.flt := by
  unfold State.Of.tickSelect; dsimp only; split <;> simp
@[simp] theorem State.Of.tickSelect_dly (cfg : Config.Parameters N) (s : State.Of N) : (s.tickSelect cfg).dly = s.dly := by
  unfold State.Of.tickSelect; dsimp only; split <;> simp
@[simp] theorem State.Of.tickSelect_cho (cfg : Config.Parameters N) (s : State.Of N) : (s.tickSelect cfg).cho = s.cho := by
  unfold State.Of.tickSelect; dsimp only; split <;> simp
@[simp] theorem State.Of.tickSelect_rev (cfg : Config.Parameters N) (s : State.Of N) : (s.tickSelect cfg).rev = s.rev := by
  unfold State.Of.tickSelect; dsimp only; split <;> simp
@[simp] theorem State.Of.tickSelect_cmds (cfg : Config.Parameters N) (s : State.Of N) : (s.tickSelect cfg).cmds = s.cmds := by
  unfold State.Of.tickSelect; dsimp only; split <;> simp
@[simp] theorem State.Of.tickSelect_responses (cfg : Config.Parameters N) (s : State.Of N) : (s.tickSelect cfg).responses = s.responses := by
  unfold State.Of.tickSelect; dsimp only; split <;> simp
@[simp] theorem State.Of.tickSelect_audio (cfg : Config.Parameters N) (s : State.Of N) : (s.tickSelect cfg).audio = s.audio := by
  unfold State.Of.tickSelect; dsimp only; split <;> simp
@[simp] theorem State.Of.tickSelect_pipe (cfg : Config.Parameters N) (s : State.Of N) :
    (s.tickSelect cfg).pipe = { s.pipe with selPrev := BitVec.ofNat 4 s.pipe.pl.sel.index } := by
  unfold State.Of.tickSelect; dsimp only; split <;> simp

/-! ## The full reset (R570) leaves the parameters and the ports -/

@[simp] theorem State.Of.fullReset_pipe_p (cfg : Config.Parameters N) (s : State.Of N) : (s.fullReset cfg).pipe.p = s.pipe.p := by cases s; rfl
@[simp] theorem State.Of.fullReset_pipe_pl (cfg : Config.Parameters N) (s : State.Of N) : (s.fullReset cfg).pipe.pl = s.pipe.pl := by cases s; rfl
@[simp] theorem State.Of.fullReset_cmds (cfg : Config.Parameters N) (s : State.Of N) : (s.fullReset cfg).cmds = s.cmds := by cases s; rfl
@[simp] theorem State.Of.fullReset_responses (cfg : Config.Parameters N) (s : State.Of N) : (s.fullReset cfg).responses = s.responses := by cases s; rfl
@[simp] theorem State.Of.fullReset_audio (cfg : Config.Parameters N) (s : State.Of N) : (s.fullReset cfg).audio = s.audio := by cases s; rfl

/-! ## The control registers of an engine (R153 to R158, R163) -/

@[simp] theorem EngineRegs.setFreq_sr (cfg : Config.Parameters N) (r : EngineRegs N) (v : N) : (r.setFreq cfg v).sr = r.sr := by cases r; rfl
@[simp] theorem EngineRegs.setFreq_harm (cfg : Config.Parameters N) (r : EngineRegs N) (v : N) : (r.setFreq cfg v).harm = r.harm := by cases r; rfl
@[simp] theorem EngineRegs.setFreq_timb (cfg : Config.Parameters N) (r : EngineRegs N) (v : N) : (r.setFreq cfg v).timb = r.timb := by cases r; rfl
@[simp] theorem EngineRegs.setFreq_morph (cfg : Config.Parameters N) (r : EngineRegs N) (v : N) : (r.setFreq cfg v).morph = r.morph := by cases r; rfl
@[simp] theorem EngineRegs.setFreq_level (cfg : Config.Parameters N) (r : EngineRegs N) (v : N) : (r.setFreq cfg v).level = r.level := by cases r; rfl
@[simp] theorem EngineRegs.setFreq_seed (cfg : Config.Parameters N) (r : EngineRegs N) (v : N) : (r.setFreq cfg v).seed = r.seed := by cases r; rfl
@[simp] theorem EngineRegs.setHarm_sr (cfg : Config.Parameters N) (r : EngineRegs N) (v : N) : (r.setHarm cfg v).sr = r.sr := by cases r; rfl
@[simp] theorem EngineRegs.setHarm_freq (cfg : Config.Parameters N) (r : EngineRegs N) (v : N) : (r.setHarm cfg v).freq = r.freq := by cases r; rfl
@[simp] theorem EngineRegs.setHarm_timb (cfg : Config.Parameters N) (r : EngineRegs N) (v : N) : (r.setHarm cfg v).timb = r.timb := by cases r; rfl
@[simp] theorem EngineRegs.setHarm_morph (cfg : Config.Parameters N) (r : EngineRegs N) (v : N) : (r.setHarm cfg v).morph = r.morph := by cases r; rfl
@[simp] theorem EngineRegs.setHarm_level (cfg : Config.Parameters N) (r : EngineRegs N) (v : N) : (r.setHarm cfg v).level = r.level := by cases r; rfl
@[simp] theorem EngineRegs.setHarm_seed (cfg : Config.Parameters N) (r : EngineRegs N) (v : N) : (r.setHarm cfg v).seed = r.seed := by cases r; rfl
@[simp] theorem EngineRegs.setTimb_sr (cfg : Config.Parameters N) (r : EngineRegs N) (v : N) : (r.setTimb cfg v).sr = r.sr := by cases r; rfl
@[simp] theorem EngineRegs.setTimb_freq (cfg : Config.Parameters N) (r : EngineRegs N) (v : N) : (r.setTimb cfg v).freq = r.freq := by cases r; rfl
@[simp] theorem EngineRegs.setTimb_harm (cfg : Config.Parameters N) (r : EngineRegs N) (v : N) : (r.setTimb cfg v).harm = r.harm := by cases r; rfl
@[simp] theorem EngineRegs.setTimb_morph (cfg : Config.Parameters N) (r : EngineRegs N) (v : N) : (r.setTimb cfg v).morph = r.morph := by cases r; rfl
@[simp] theorem EngineRegs.setTimb_level (cfg : Config.Parameters N) (r : EngineRegs N) (v : N) : (r.setTimb cfg v).level = r.level := by cases r; rfl
@[simp] theorem EngineRegs.setTimb_seed (cfg : Config.Parameters N) (r : EngineRegs N) (v : N) : (r.setTimb cfg v).seed = r.seed := by cases r; rfl
@[simp] theorem EngineRegs.setMorph_sr (cfg : Config.Parameters N) (r : EngineRegs N) (v : N) : (r.setMorph cfg v).sr = r.sr := by cases r; rfl
@[simp] theorem EngineRegs.setMorph_freq (cfg : Config.Parameters N) (r : EngineRegs N) (v : N) : (r.setMorph cfg v).freq = r.freq := by cases r; rfl
@[simp] theorem EngineRegs.setMorph_harm (cfg : Config.Parameters N) (r : EngineRegs N) (v : N) : (r.setMorph cfg v).harm = r.harm := by cases r; rfl
@[simp] theorem EngineRegs.setMorph_timb (cfg : Config.Parameters N) (r : EngineRegs N) (v : N) : (r.setMorph cfg v).timb = r.timb := by cases r; rfl
@[simp] theorem EngineRegs.setMorph_level (cfg : Config.Parameters N) (r : EngineRegs N) (v : N) : (r.setMorph cfg v).level = r.level := by cases r; rfl
@[simp] theorem EngineRegs.setMorph_seed (cfg : Config.Parameters N) (r : EngineRegs N) (v : N) : (r.setMorph cfg v).seed = r.seed := by cases r; rfl
@[simp] theorem EngineRegs.setLevel_sr (cfg : Config.Parameters N) (r : EngineRegs N) (v : N) : (r.setLevel cfg v).sr = r.sr := by cases r; rfl
@[simp] theorem EngineRegs.setLevel_freq (cfg : Config.Parameters N) (r : EngineRegs N) (v : N) : (r.setLevel cfg v).freq = r.freq := by cases r; rfl
@[simp] theorem EngineRegs.setLevel_harm (cfg : Config.Parameters N) (r : EngineRegs N) (v : N) : (r.setLevel cfg v).harm = r.harm := by cases r; rfl
@[simp] theorem EngineRegs.setLevel_timb (cfg : Config.Parameters N) (r : EngineRegs N) (v : N) : (r.setLevel cfg v).timb = r.timb := by cases r; rfl
@[simp] theorem EngineRegs.setLevel_morph (cfg : Config.Parameters N) (r : EngineRegs N) (v : N) : (r.setLevel cfg v).morph = r.morph := by cases r; rfl
@[simp] theorem EngineRegs.setLevel_seed (cfg : Config.Parameters N) (r : EngineRegs N) (v : N) : (r.setLevel cfg v).seed = r.seed := by cases r; rfl
@[simp] theorem EngineRegs.drawn_sr (cfg : Config.Parameters N) (r : EngineRegs N) : (r.drawn cfg).sr = r.sr := by cases r; rfl
@[simp] theorem EngineRegs.drawn_freq (cfg : Config.Parameters N) (r : EngineRegs N) : (r.drawn cfg).freq = r.freq := by cases r; rfl
@[simp] theorem EngineRegs.drawn_harm (cfg : Config.Parameters N) (r : EngineRegs N) : (r.drawn cfg).harm = r.harm := by cases r; rfl
@[simp] theorem EngineRegs.drawn_timb (cfg : Config.Parameters N) (r : EngineRegs N) : (r.drawn cfg).timb = r.timb := by cases r; rfl
@[simp] theorem EngineRegs.drawn_morph (cfg : Config.Parameters N) (r : EngineRegs N) : (r.drawn cfg).morph = r.morph := by cases r; rfl
@[simp] theorem EngineRegs.drawn_level (cfg : Config.Parameters N) (r : EngineRegs N) : (r.drawn cfg).level = r.level := by cases r; rfl

@[simp] theorem EngineRegs.program_sr (cfg : Config.Parameters N) (r : EngineRegs N) (f h t m : N) : (r.program cfg f h t m).sr = r.sr := by cases r; rfl
@[simp] theorem EngineRegs.program_level (cfg : Config.Parameters N) (r : EngineRegs N) (f h t m : N) : (r.program cfg f h t m).level = r.level := by cases r; rfl
@[simp] theorem EngineRegs.program_seed (cfg : Config.Parameters N) (r : EngineRegs N) (f h t m : N) : (r.program cfg f h t m).seed = r.seed := by cases r; rfl
@[simp] theorem outstage_regs (cfg : Config.Parameters N) (k : Nat) (r : EngineRegs N) (x y : N) : (outstage cfg k r x y).2 = r.drawn cfg := rfl
@[simp] theorem outstage_left (cfg : Config.Parameters N) (k : Nat) (r : EngineRegs N) (x y : N) : (outstage cfg k r x y).1.l = outLevel cfg k r x := rfl
@[simp] theorem outstage_right (cfg : Config.Parameters N) (k : Nat) (r : EngineRegs N) (x y : N) : (outstage cfg k r x y).1.r = outLevel cfg k r y := rfl

/-! ## ADSR (R352 to R359) -/

@[simp] theorem Adsr.setAttack_st (cfg : Config.Parameters N) (u : Adsr N) (v : N) : (u.setAttack cfg v).st = u.st := by cases u; rfl
@[simp] theorem Adsr.setAttack_level (cfg : Config.Parameters N) (u : Adsr N) (v : N) : (u.setAttack cfg v).level = u.level := by cases u; rfl
@[simp] theorem Adsr.setAttack_sr (cfg : Config.Parameters N) (u : Adsr N) (v : N) : (u.setAttack cfg v).sr = u.sr := by cases u; rfl
@[simp] theorem Adsr.setAttack_d (cfg : Config.Parameters N) (u : Adsr N) (v : N) : (u.setAttack cfg v).d = u.d := by cases u; rfl
@[simp] theorem Adsr.setAttack_s (cfg : Config.Parameters N) (u : Adsr N) (v : N) : (u.setAttack cfg v).s = u.s := by cases u; rfl
@[simp] theorem Adsr.setAttack_r (cfg : Config.Parameters N) (u : Adsr N) (v : N) : (u.setAttack cfg v).r = u.r := by cases u; rfl
@[simp] theorem Adsr.setDecay_st (cfg : Config.Parameters N) (u : Adsr N) (v : N) : (u.setDecay cfg v).st = u.st := by cases u; rfl
@[simp] theorem Adsr.setDecay_level (cfg : Config.Parameters N) (u : Adsr N) (v : N) : (u.setDecay cfg v).level = u.level := by cases u; rfl
@[simp] theorem Adsr.setDecay_sr (cfg : Config.Parameters N) (u : Adsr N) (v : N) : (u.setDecay cfg v).sr = u.sr := by cases u; rfl
@[simp] theorem Adsr.setDecay_a (cfg : Config.Parameters N) (u : Adsr N) (v : N) : (u.setDecay cfg v).a = u.a := by cases u; rfl
@[simp] theorem Adsr.setDecay_s (cfg : Config.Parameters N) (u : Adsr N) (v : N) : (u.setDecay cfg v).s = u.s := by cases u; rfl
@[simp] theorem Adsr.setDecay_r (cfg : Config.Parameters N) (u : Adsr N) (v : N) : (u.setDecay cfg v).r = u.r := by cases u; rfl
@[simp] theorem Adsr.setSustain_st (cfg : Config.Parameters N) (u : Adsr N) (v : N) : (u.setSustain cfg v).st = u.st := by cases u; rfl
@[simp] theorem Adsr.setSustain_level (cfg : Config.Parameters N) (u : Adsr N) (v : N) : (u.setSustain cfg v).level = u.level := by cases u; rfl
@[simp] theorem Adsr.setSustain_sr (cfg : Config.Parameters N) (u : Adsr N) (v : N) : (u.setSustain cfg v).sr = u.sr := by cases u; rfl
@[simp] theorem Adsr.setSustain_a (cfg : Config.Parameters N) (u : Adsr N) (v : N) : (u.setSustain cfg v).a = u.a := by cases u; rfl
@[simp] theorem Adsr.setSustain_d (cfg : Config.Parameters N) (u : Adsr N) (v : N) : (u.setSustain cfg v).d = u.d := by cases u; rfl
@[simp] theorem Adsr.setSustain_r (cfg : Config.Parameters N) (u : Adsr N) (v : N) : (u.setSustain cfg v).r = u.r := by cases u; rfl
@[simp] theorem Adsr.setRelease_st (cfg : Config.Parameters N) (u : Adsr N) (v : N) : (u.setRelease cfg v).st = u.st := by cases u; rfl
@[simp] theorem Adsr.setRelease_level (cfg : Config.Parameters N) (u : Adsr N) (v : N) : (u.setRelease cfg v).level = u.level := by cases u; rfl
@[simp] theorem Adsr.setRelease_sr (cfg : Config.Parameters N) (u : Adsr N) (v : N) : (u.setRelease cfg v).sr = u.sr := by cases u; rfl
@[simp] theorem Adsr.setRelease_a (cfg : Config.Parameters N) (u : Adsr N) (v : N) : (u.setRelease cfg v).a = u.a := by cases u; rfl
@[simp] theorem Adsr.setRelease_d (cfg : Config.Parameters N) (u : Adsr N) (v : N) : (u.setRelease cfg v).d = u.d := by cases u; rfl
@[simp] theorem Adsr.setRelease_s (cfg : Config.Parameters N) (u : Adsr N) (v : N) : (u.setRelease cfg v).s = u.s := by cases u; rfl
@[simp] theorem Adsr.gateOn_level (u : Adsr N) : (u.gateOn).level = u.level := by cases u; rfl
@[simp] theorem Adsr.gateOn_sr (u : Adsr N) : (u.gateOn).sr = u.sr := by cases u; rfl
@[simp] theorem Adsr.gateOn_a (u : Adsr N) : (u.gateOn).a = u.a := by cases u; rfl
@[simp] theorem Adsr.gateOn_d (u : Adsr N) : (u.gateOn).d = u.d := by cases u; rfl
@[simp] theorem Adsr.gateOn_s (u : Adsr N) : (u.gateOn).s = u.s := by cases u; rfl
@[simp] theorem Adsr.gateOn_r (u : Adsr N) : (u.gateOn).r = u.r := by cases u; rfl
@[simp] theorem Adsr.gateOff_level (u : Adsr N) : (u.gateOff).level = u.level := by cases u; rfl
@[simp] theorem Adsr.gateOff_sr (u : Adsr N) : (u.gateOff).sr = u.sr := by cases u; rfl
@[simp] theorem Adsr.gateOff_a (u : Adsr N) : (u.gateOff).a = u.a := by cases u; rfl
@[simp] theorem Adsr.gateOff_d (u : Adsr N) : (u.gateOff).d = u.d := by cases u; rfl
@[simp] theorem Adsr.gateOff_s (u : Adsr N) : (u.gateOff).s = u.s := by cases u; rfl
@[simp] theorem Adsr.gateOff_r (u : Adsr N) : (u.gateOff).r = u.r := by cases u; rfl
@[simp] theorem Adsr.reset_sr (cfg : Config.Parameters N) (u : Adsr N) : (u.reset cfg).sr = u.sr := by cases u; rfl
@[simp] theorem Adsr.reset_a (cfg : Config.Parameters N) (u : Adsr N) : (u.reset cfg).a = u.a := by cases u; rfl
@[simp] theorem Adsr.reset_d (cfg : Config.Parameters N) (u : Adsr N) : (u.reset cfg).d = u.d := by cases u; rfl
@[simp] theorem Adsr.reset_s (cfg : Config.Parameters N) (u : Adsr N) : (u.reset cfg).s = u.s := by cases u; rfl
@[simp] theorem Adsr.reset_r (cfg : Config.Parameters N) (u : Adsr N) : (u.reset cfg).r = u.r := by cases u; rfl

/-- `process` writes the stage and the level only (R358). -/
theorem Adsr.advance_eq (cfg : Config.Parameters N) (u : Adsr N) : (u.advance cfg) = { u with st := (u.advance cfg).st, level := (u.advance cfg).level } := by
  unfold Adsr.advance; cases u.st <;> dsimp only <;> split <;> rfl
@[simp] theorem Adsr.process_st (cfg : Config.Parameters N) (u : Adsr N) : (u.process cfg).st = (u.advance cfg).st := rfl
@[simp] theorem Adsr.process_sr (cfg : Config.Parameters N) (u : Adsr N) : (u.process cfg).sr = u.sr := by unfold Adsr.process; rw [Adsr.advance_eq]
@[simp] theorem Adsr.process_a (cfg : Config.Parameters N) (u : Adsr N) : (u.process cfg).a = u.a := by unfold Adsr.process; rw [Adsr.advance_eq]
@[simp] theorem Adsr.process_d (cfg : Config.Parameters N) (u : Adsr N) : (u.process cfg).d = u.d := by unfold Adsr.process; rw [Adsr.advance_eq]
@[simp] theorem Adsr.process_s (cfg : Config.Parameters N) (u : Adsr N) : (u.process cfg).s = u.s := by unfold Adsr.process; rw [Adsr.advance_eq]
@[simp] theorem Adsr.process_r (cfg : Config.Parameters N) (u : Adsr N) : (u.process cfg).r = u.r := by unfold Adsr.process; rw [Adsr.advance_eq]

/-! ## AD (R367 to R372) -/

@[simp] theorem Ad.setAttack_st (cfg : Config.Parameters N) (u : Ad N) (v : N) : (u.setAttack cfg v).st = u.st := by cases u; rfl
@[simp] theorem Ad.setAttack_level (cfg : Config.Parameters N) (u : Ad N) (v : N) : (u.setAttack cfg v).level = u.level := by cases u; rfl
@[simp] theorem Ad.setAttack_sr (cfg : Config.Parameters N) (u : Ad N) (v : N) : (u.setAttack cfg v).sr = u.sr := by cases u; rfl
@[simp] theorem Ad.setAttack_d (cfg : Config.Parameters N) (u : Ad N) (v : N) : (u.setAttack cfg v).d = u.d := by cases u; rfl
@[simp] theorem Ad.setDecay_st (cfg : Config.Parameters N) (u : Ad N) (v : N) : (u.setDecay cfg v).st = u.st := by cases u; rfl
@[simp] theorem Ad.setDecay_level (cfg : Config.Parameters N) (u : Ad N) (v : N) : (u.setDecay cfg v).level = u.level := by cases u; rfl
@[simp] theorem Ad.setDecay_sr (cfg : Config.Parameters N) (u : Ad N) (v : N) : (u.setDecay cfg v).sr = u.sr := by cases u; rfl
@[simp] theorem Ad.setDecay_a (cfg : Config.Parameters N) (u : Ad N) (v : N) : (u.setDecay cfg v).a = u.a := by cases u; rfl
@[simp] theorem Ad.gateOn_level (u : Ad N) : (u.gateOn).level = u.level := by cases u; rfl
@[simp] theorem Ad.gateOn_sr (u : Ad N) : (u.gateOn).sr = u.sr := by cases u; rfl
@[simp] theorem Ad.gateOn_a (u : Ad N) : (u.gateOn).a = u.a := by cases u; rfl
@[simp] theorem Ad.gateOn_d (u : Ad N) : (u.gateOn).d = u.d := by cases u; rfl
@[simp] theorem Ad.gateOff_sr (cfg : Config.Parameters N) (u : Ad N) : (u.gateOff cfg).sr = u.sr := by cases u; rfl
@[simp] theorem Ad.gateOff_a (cfg : Config.Parameters N) (u : Ad N) : (u.gateOff cfg).a = u.a := by cases u; rfl
@[simp] theorem Ad.gateOff_d (cfg : Config.Parameters N) (u : Ad N) : (u.gateOff cfg).d = u.d := by cases u; rfl
@[simp] theorem Ad.reset_sr (cfg : Config.Parameters N) (u : Ad N) : (u.reset cfg).sr = u.sr := by cases u; rfl
@[simp] theorem Ad.reset_a (cfg : Config.Parameters N) (u : Ad N) : (u.reset cfg).a = u.a := by cases u; rfl
@[simp] theorem Ad.reset_d (cfg : Config.Parameters N) (u : Ad N) : (u.reset cfg).d = u.d := by cases u; rfl

/-- `process` writes the stage and the level only (R371). -/
theorem Ad.advance_eq (cfg : Config.Parameters N) (u : Ad N) : (u.advance cfg) = { u with st := (u.advance cfg).st, level := (u.advance cfg).level } := by
  unfold Ad.advance; cases u.st <;> dsimp only <;> split <;> rfl
@[simp] theorem Ad.process_st (cfg : Config.Parameters N) (u : Ad N) : (u.process cfg).st = (u.advance cfg).st := rfl
@[simp] theorem Ad.process_sr (cfg : Config.Parameters N) (u : Ad N) : (u.process cfg).sr = u.sr := by unfold Ad.process; rw [Ad.advance_eq]
@[simp] theorem Ad.process_a (cfg : Config.Parameters N) (u : Ad N) : (u.process cfg).a = u.a := by unfold Ad.process; rw [Ad.advance_eq]
@[simp] theorem Ad.process_d (cfg : Config.Parameters N) (u : Ad N) : (u.process cfg).d = u.d := by unfold Ad.process; rw [Ad.advance_eq]

/-! ## LFO (R383 to R387) -/

@[simp] theorem Lfo.setFreq_ph (cfg : Config.Parameters N) (u : Lfo N) (v : N) : (u.setFreq cfg v).ph = u.ph := by cases u; rfl
@[simp] theorem Lfo.setFreq_rnd (cfg : Config.Parameters N) (u : Lfo N) (v : N) : (u.setFreq cfg v).rnd = u.rnd := by cases u; rfl
@[simp] theorem Lfo.setFreq_seed (cfg : Config.Parameters N) (u : Lfo N) (v : N) : (u.setFreq cfg v).seed = u.seed := by cases u; rfl
@[simp] theorem Lfo.setFreq_sr (cfg : Config.Parameters N) (u : Lfo N) (v : N) : (u.setFreq cfg v).sr = u.sr := by cases u; rfl
@[simp] theorem Lfo.setFreq_wave (cfg : Config.Parameters N) (u : Lfo N) (v : N) : (u.setFreq cfg v).wave = u.wave := by cases u; rfl
@[simp] theorem Lfo.setFreq_variation (cfg : Config.Parameters N) (u : Lfo N) (v : N) : (u.setFreq cfg v).variation = u.variation := by cases u; rfl
@[simp] theorem Lfo.setWave_ph (cfg : Config.Parameters N) (u : Lfo N) (v : N) : (u.setWave cfg v).ph = u.ph := by cases u; rfl
@[simp] theorem Lfo.setWave_rnd (cfg : Config.Parameters N) (u : Lfo N) (v : N) : (u.setWave cfg v).rnd = u.rnd := by cases u; rfl
@[simp] theorem Lfo.setWave_seed (cfg : Config.Parameters N) (u : Lfo N) (v : N) : (u.setWave cfg v).seed = u.seed := by cases u; rfl
@[simp] theorem Lfo.setWave_sr (cfg : Config.Parameters N) (u : Lfo N) (v : N) : (u.setWave cfg v).sr = u.sr := by cases u; rfl
@[simp] theorem Lfo.setWave_freq (cfg : Config.Parameters N) (u : Lfo N) (v : N) : (u.setWave cfg v).freq = u.freq := by cases u; rfl
@[simp] theorem Lfo.setWave_variation (cfg : Config.Parameters N) (u : Lfo N) (v : N) : (u.setWave cfg v).variation = u.variation := by cases u; rfl
@[simp] theorem Lfo.setVar_ph (cfg : Config.Parameters N) (u : Lfo N) (v : N) : (u.setVar cfg v).ph = u.ph := by cases u; rfl
@[simp] theorem Lfo.setVar_rnd (cfg : Config.Parameters N) (u : Lfo N) (v : N) : (u.setVar cfg v).rnd = u.rnd := by cases u; rfl
@[simp] theorem Lfo.setVar_seed (cfg : Config.Parameters N) (u : Lfo N) (v : N) : (u.setVar cfg v).seed = u.seed := by cases u; rfl
@[simp] theorem Lfo.setVar_sr (cfg : Config.Parameters N) (u : Lfo N) (v : N) : (u.setVar cfg v).sr = u.sr := by cases u; rfl
@[simp] theorem Lfo.setVar_freq (cfg : Config.Parameters N) (u : Lfo N) (v : N) : (u.setVar cfg v).freq = u.freq := by cases u; rfl
@[simp] theorem Lfo.setVar_wave (cfg : Config.Parameters N) (u : Lfo N) (v : N) : (u.setVar cfg v).wave = u.wave := by cases u; rfl
@[simp] theorem Lfo.reset_seed (cfg : Config.Parameters N) (u : Lfo N) : (u.reset cfg).seed = u.seed := by cases u; rfl
@[simp] theorem Lfo.reset_sr (cfg : Config.Parameters N) (u : Lfo N) : (u.reset cfg).sr = u.sr := by cases u; rfl
@[simp] theorem Lfo.reset_freq (cfg : Config.Parameters N) (u : Lfo N) : (u.reset cfg).freq = u.freq := by cases u; rfl
@[simp] theorem Lfo.reset_wave (cfg : Config.Parameters N) (u : Lfo N) : (u.reset cfg).wave = u.wave := by cases u; rfl
@[simp] theorem Lfo.reset_variation (cfg : Config.Parameters N) (u : Lfo N) : (u.reset cfg).variation = u.variation := by cases u; rfl

@[simp] theorem Lfo.process_sr (u : Lfo N) (cfg : Config.Parameters N) : (u.process cfg).sr = u.sr := by unfold Lfo.process; dsimp only; split <;> rfl
@[simp] theorem Lfo.process_freq (u : Lfo N) (cfg : Config.Parameters N) : (u.process cfg).freq = u.freq := by unfold Lfo.process; dsimp only; split <;> rfl
@[simp] theorem Lfo.process_wave (u : Lfo N) (cfg : Config.Parameters N) : (u.process cfg).wave = u.wave := by unfold Lfo.process; dsimp only; split <;> rfl
@[simp] theorem Lfo.process_variation (u : Lfo N) (cfg : Config.Parameters N) : (u.process cfg).variation = u.variation := by unfold Lfo.process; dsimp only; split <;> rfl

/-! ## FLT (R405 to R409) -/

@[simp] theorem Ladder.setCutoff_s (cfg : Config.Parameters N) (u : Ladder N) (v : N) : (u.setCutoff cfg v).s = u.s := by cases u; rfl
@[simp] theorem Ladder.setCutoff_sr (cfg : Config.Parameters N) (u : Ladder N) (v : N) : (u.setCutoff cfg v).sr = u.sr := by cases u; rfl
@[simp] theorem Ladder.setCutoff_res (cfg : Config.Parameters N) (u : Ladder N) (v : N) : (u.setCutoff cfg v).res = u.res := by cases u; rfl
@[simp] theorem Ladder.setCutoff_wet (cfg : Config.Parameters N) (u : Ladder N) (v : N) : (u.setCutoff cfg v).wet = u.wet := by cases u; rfl
@[simp] theorem Ladder.setRes_s (cfg : Config.Parameters N) (u : Ladder N) (v : N) : (u.setRes cfg v).s = u.s := by cases u; rfl
@[simp] theorem Ladder.setRes_sr (cfg : Config.Parameters N) (u : Ladder N) (v : N) : (u.setRes cfg v).sr = u.sr := by cases u; rfl
@[simp] theorem Ladder.setRes_fc (cfg : Config.Parameters N) (u : Ladder N) (v : N) : (u.setRes cfg v).fc = u.fc := by cases u; rfl
@[simp] theorem Ladder.setRes_wet (cfg : Config.Parameters N) (u : Ladder N) (v : N) : (u.setRes cfg v).wet = u.wet := by cases u; rfl
@[simp] theorem Ladder.setWet_s (cfg : Config.Parameters N) (u : Ladder N) (v : N) : (u.setWet cfg v).s = u.s := by cases u; rfl
@[simp] theorem Ladder.setWet_sr (cfg : Config.Parameters N) (u : Ladder N) (v : N) : (u.setWet cfg v).sr = u.sr := by cases u; rfl
@[simp] theorem Ladder.setWet_fc (cfg : Config.Parameters N) (u : Ladder N) (v : N) : (u.setWet cfg v).fc = u.fc := by cases u; rfl
@[simp] theorem Ladder.setWet_res (cfg : Config.Parameters N) (u : Ladder N) (v : N) : (u.setWet cfg v).res = u.res := by cases u; rfl
@[simp] theorem Ladder.reset_sr (cfg : Config.Parameters N) (u : Ladder N) : (u.reset cfg).sr = u.sr := by cases u; rfl
@[simp] theorem Ladder.reset_fc (cfg : Config.Parameters N) (u : Ladder N) : (u.reset cfg).fc = u.fc := by cases u; rfl
@[simp] theorem Ladder.reset_res (cfg : Config.Parameters N) (u : Ladder N) : (u.reset cfg).res = u.res := by cases u; rfl
@[simp] theorem Ladder.reset_wet (cfg : Config.Parameters N) (u : Ladder N) : (u.reset cfg).wet = u.wet := by cases u; rfl

@[simp] theorem Ladder.process_sr [DecidableEq N] (cfg : Config.Parameters N) (u : Ladder N) (c : Chan) (x : N) : (u.process cfg c x).sr = u.sr := by cases u; rfl
@[simp] theorem Ladder.process_fc [DecidableEq N] (cfg : Config.Parameters N) (u : Ladder N) (c : Chan) (x : N) : (u.process cfg c x).fc = u.fc := by cases u; rfl
@[simp] theorem Ladder.process_res [DecidableEq N] (cfg : Config.Parameters N) (u : Ladder N) (c : Chan) (x : N) : (u.process cfg c x).res = u.res := by cases u; rfl
@[simp] theorem Ladder.process_wet [DecidableEq N] (cfg : Config.Parameters N) (u : Ladder N) (c : Chan) (x : N) : (u.process cfg c x).wet = u.wet := by cases u; rfl

/-! ## The effects (R423 to R426, R443 to R448, R463 to R467) -/

@[simp] theorem Delay.setAmount_ch (cfg : Config.Parameters N) (u : Delay N) (v : N) : (u.setAmount cfg v).ch = u.ch := by cases u; rfl
@[simp] theorem Delay.reset_amount (cfg : Config.Parameters N) (u : Delay N) : (u.reset cfg).amount = u.amount := by cases u; rfl
@[simp] theorem Delay.process_amount [DecidableEq N] (cfg : Config.Parameters N) (u : Delay N) (c : Chan) (x : N) : (u.process cfg c x).amount = u.amount := by cases u; rfl
@[simp] theorem Chorus.setAmount_ch (cfg : Config.Parameters N) (u : Chorus N) (v : N) : (u.setAmount cfg v).ch = u.ch := by cases u; rfl
@[simp] theorem Chorus.reset_amount (cfg : Config.Parameters N) (u : Chorus N) : (u.reset cfg).amount = u.amount := by cases u; rfl
@[simp] theorem Chorus.process_amount [DecidableEq N] (cfg : Config.Parameters N) (u : Chorus N) (c : Chan) (x : N) : (u.process cfg c x).amount = u.amount := by cases u; rfl
@[simp] theorem Reverb.setAmount_ch (cfg : Config.Parameters N) (u : Reverb N) (v : N) : (u.setAmount cfg v).ch = u.ch := by cases u; rfl
@[simp] theorem Reverb.reset_amount (u : Reverb N) : u.reset.amount = u.amount := by cases u; rfl
@[simp] theorem Reverb.process_amount [DecidableEq N] (cfg : Config.Parameters N) (u : Reverb N) (c : Chan) (x : N) : (u.process cfg c x).amount = u.amount := by cases u; rfl

@[simp] theorem stereoGet_stereoSet_self {α : Type} (x : Stereo α) (c : Chan) (v : α) :
    stereoGet (stereoSet x c v) c = v := by cases c <;> rfl
@[simp] theorem stereoSet_left {α : Type} (x : Stereo α) (v : α) : stereoSet x .left v = ⟨v, x.r⟩ := rfl
@[simp] theorem stereoSet_right {α : Type} (x : Stereo α) (v : α) : stereoSet x .right v = ⟨x.l, v⟩ := rfl
@[simp] theorem stereoGet_left {α : Type} (x : Stereo α) : stereoGet x .left = x.l := rfl
@[simp] theorem stereoGet_right {α : Type} (x : Stereo α) : stereoGet x .right = x.r := rfl

end Sys2Proof.Machine
end

