-- ==== Sys2Proof/Laws/Ops.lean ====
section
/-! SUPPORT. What the shared operations can do: banks, draws, codes, the primitives of the contract, the units' processes,
and the cases of a step. -/

namespace Sys2Proof.Machine

variable {N : Type} (cfg : Config.Parameters N)

/-! ## Banks -/

theorem mapFrom_getD (f : Nat → N → N) (k : Nat) (l : List N) (i : Nat) (h : i < l.length) :
    (mapFrom f k l).getD i cfg.zero = f (k + i) (l.getD i cfg.zero) := by
  induction l generalizing k i with
  | nil => cases h
  | cons v t ih =>
    cases i with
    | zero => rfl
    | succ i =>
      have := ih (k + 1) i (by simpa using h)
      simp only [mapFrom, List.getD_cons_succ] at *
      rw [this]; congr 1; omega

/-- Word `i` of a bank after `f` was applied to every word. -/
theorem bankGet_bankMap {n : Nat} (f : Nat → N → N) (b : Bank n N) (i : Nat) (h : i < n) :
    bankGet (bankMap f b) i cfg = f i (bankGet b i cfg) := by
  have := mapFrom_getD cfg f 0 b.words i (by rw [b.len]; exact h)
  rw [Nat.zero_add] at this; exact this

theorem bankGet_fill (n i : Nat) (v : N) (h : i < n) : bankGet (Bank.fill n v) i cfg = v := by
  simp [bankGet, Bank.fill, List.getD_eq_getElem?_getD, h]

/-- Word `j` of a bank after word `i` was replaced. -/
theorem bankGet_bankSet {n : Nat} (b : Bank n N) (i j : Nat) (v : N) (h : i < n) :
    bankGet (bankSet b i v) j cfg = if i = j then v else bankGet b j cfg := by
  unfold bankGet bankSet
  simp only [List.getD_eq_getElem?_getD, List.getElem?_set, b.len, h]
  split <;> simp

/-- What holds of every word of a bank after `f` was applied: what holds of every value of `f`. -/
theorem bankMap_all {n : Nat} (f : Nat → N → N) (b : Bank n N) (p : N → Bool) (h : ∀ i v, p (f i v) = true) :
    (bankMap f b).words.all p = true := by
  have : ∀ (k : Nat) (l : List N), (mapFrom f k l).all p = true := by
    intro k l
    induction l generalizing k with
    | nil => rfl
    | cons v t ih => simp [mapFrom, h, ih]
  exact this 0 b.words

theorem bank_ext {n : Nat} {a b : Bank n N} (h : a.words = b.words) : a = b := by
  cases a; cases b; cases h; rfl

/-! ## Draws (R163, R231, R251) -/

theorem rngSkip_add (m n : Nat) (s : BitVec 32) :
    rngSkip cfg (m + n) s = rngSkip cfg n (rngSkip cfg m s) := by
  induction m generalizing s with
  | zero => rw [Nat.zero_add]; rfl
  | succ m ih => rw [Nat.succ_add]; exact ih _

theorem rngSkip_succ (n : Nat) (s : BitVec 32) :
    rngSkip cfg (n + 1) s = cfg.rngStep (rngSkip cfg n s) := rngSkip_add cfg n 1 s

theorem rngSkip_eq_iterate (n : Nat) (s : BitVec 32) :
    rngSkip cfg n s = Nat.iterate cfg.rngStep n s := by
  induction n generalizing s with
  | zero => rfl
  | succ n ih => exact ih _

theorem drawPhases_getD (n i : Nat) (s : BitVec 32) (h : i < n) :
    (drawPhases cfg n s).getD i cfg.zero = cfg.ftz (cfg.rngOut (rngSkip cfg (i + 1) s)) := by
  induction n generalizing s i with
  | zero => omega
  | succ n ih =>
    cases i with
    | zero => simp only [drawPhases, List.getD_cons_zero, rngSkip]
    | succ i => rw [drawPhases, List.getD_cons_succ, ih i _ (by omega)]; simp only [rngSkip]

theorem drawDetunes_getD (n j : Nat) (s : BitVec 32) (h : j < n) :
    (drawDetunes cfg n s).getD j cfg.zero = partialDetune cfg (rngSkip cfg (2 * j + 1) s) := by
  induction n generalizing s j with
  | zero => omega
  | succ n ih =>
    cases j with
    | zero => simp only [drawDetunes, List.getD_cons_zero, rngSkip]
    | succ j =>
      rw [drawDetunes, List.getD_cons_succ, ih j _ (by omega), show 2 * (j + 1) + 1 = 2 * j + 1 + 1 + 1 by omega]
      simp only [rngSkip]

theorem drawPartialPhases_getD (n j : Nat) (s : BitVec 32) (h : j < n) :
    (drawPartialPhases cfg n s).getD j cfg.zero = cfg.ftz (cfg.rngOut (rngSkip cfg (2 * j + 2) s)) := by
  induction n generalizing s j with
  | zero => omega
  | succ n ih =>
    cases j with
    | zero => simp only [drawPartialPhases, List.getD_cons_zero, rngSkip]
    | succ j =>
      rw [drawPartialPhases, List.getD_cons_succ, ih j _ (by omega), show 2 * (j + 1) + 2 = 2 * j + 2 + 1 + 1 by omega]
      simp only [rngSkip]

theorem drawPhases_all (n : Nat) (s : BitVec 32) (p : N → Bool)
    (h : ∀ u, p (cfg.ftz (cfg.rngOut u)) = true) :
    (drawPhases cfg n s).all p = true := by
  induction n generalizing s with
  | zero => rfl
  | succ n ih => simp [drawPhases, h, ih]

theorem drawPartialPhases_all (n : Nat) (s : BitVec 32) (p : N → Bool)
    (h : ∀ u, p (cfg.ftz (cfg.rngOut u)) = true) :
    (drawPartialPhases cfg n s).all p = true := by
  induction n generalizing s with
  | zero => rfl
  | succ n ih => simp [drawPartialPhases, h, ih]

theorem drawDetunes_all (n : Nat) (s : BitVec 32) (p : N → Bool)
    (h : ∀ v : N, p (cfg.ftz v) = true) :
    (drawDetunes cfg n s).all p = true := by
  induction n generalizing s with
  | zero => rfl
  | succ n ih => simp [drawDetunes, partialDetune, h, ih]

/-! ## Codes (R130 to R132) -/

theorem clampInt_within (v : Int) {lo hi : Int} (h : lo ≤ hi) : lo ≤ clampInt v lo hi ∧ clampInt v lo hi ≤ hi := by
  unfold clampInt; omega

theorem engineOfIndex_index (k : Engine) : engineOfIndex k.index = k := by cases k <;> rfl

theorem engine_index_le (k : Engine) : k.index ≤ 11 := by cases k <;> decide

theorem engine_index_inj {j k : Engine} (h : j.index = k.index) : j = k := by
  rw [← engineOfIndex_index j, h, engineOfIndex_index]

theorem waveOfCode_code (w : LfoWave) : waveOfCode w.code = w := by cases w <;> rfl

theorem code_waveOfCode (n : Nat) (h : n ≤ 4) : (waveOfCode n).code = n := by
  rcases n with _ | _ | _ | _ | _ | n <;> first | rfl | omega

/-! ## Words in their ranges -/

theorem ftz_inUnit {v : NUM} (h : v.inUnit = true) : v.ftz.inUnit = true := by
  unfold NUM.inUnit NUM.within at *
  rw [Bool.and_eq_true] at *
  exact ⟨NUM.le_ftz (by decide +kernel) h.1, NUM.ftz_le (by decide +kernel) h.2⟩

theorem sanUnit_inUnit (v : NUM) : v.sanUnit.inUnit = true := by
  unfold NUM.inUnit NUM.within NUM.sanUnit
  rw [Bool.and_eq_true]
  exact NUM.san_within v (by decide +kernel)

theorem clamp_inUnit (v : NUM) : (v.clamp NUM.zero NUM.one).inUnit = true := by
  unfold NUM.inUnit NUM.within
  rw [Bool.and_eq_true]
  exact NUM.clamp_within v (by decide +kernel)

theorem inTime_san (v : NUM) : (v.san NUM.zero Config.reference.envTMax).ftz.inTime = true := by
  unfold NUM.inTime NUM.within
  have := NUM.san_within v (lo := NUM.zero) (hi := Config.reference.envTMax) (by decide +kernel)
  rw [Bool.and_eq_true]
  exact ⟨NUM.le_ftz (by decide +kernel) this.1, NUM.ftz_le (by decide +kernel) this.2⟩

theorem ftz_inPhase {v : NUM} (h : v.inPhase = true) : v.ftz.inPhase = true := by
  unfold NUM.inPhase at *
  rw [Bool.and_eq_true] at *
  exact ⟨NUM.le_ftz (by decide +kernel) h.1, NUM.ftz_lt (by decide +kernel) h.2⟩

/-- A phase after one sample is a phase, whatever it was before (R160). -/
theorem phaseNext_inPhase (p dt : NUM) : (phaseNext Config.reference p dt).inPhase = true := by
  apply ftz_inPhase
  unfold NUM.inPhase
  rw [Bool.and_eq_true]
  exact NUM.wrap1_inPhase _

theorem phaseNext_flushed (p dt : NUM) : (phaseNext Config.reference p dt).flushed = true := ftz_flushed _

theorem draw_inPhase (s : BitVec 32) : (Config.reference.rngOut s).ftz.inPhase = true := by
  apply ftz_inPhase
  unfold NUM.inPhase
  rw [Bool.and_eq_true]
  exact rngOut_inPhase s

/-- An envelope level after `process` is in [0, 1], whatever it was before (R358, R371). -/
theorem adsr_process_level (u : Adsr NUM) : (u.process Config.reference).level.inUnit = true :=
  ftz_inUnit (clamp_inUnit _)

theorem ad_process_level (u : Ad NUM) : (u.process Config.reference).level.inUnit = true :=
  ftz_inUnit (clamp_inUnit _)

theorem adsr_process_flushed (u : Adsr NUM) : (u.process Config.reference).level.flushed = true := ftz_flushed _

theorem ad_process_flushed (u : Ad NUM) : (u.process Config.reference).level.flushed = true := ftz_flushed _

/-- One sample of the delay writes each line in canonical form and keeps the cursor inside (R425). -/
theorem delay_process_wellShaped [DecidableEq N] {cfg : Config.Parameters N} (hc : 0 < cfg.dlyCap) {u : Delay N} (c : Chan) (x : N)
    (hl : u.ch.l.wellShaped cfg = true) (hr : u.ch.r.wellShaped cfg = true) :
    (u.process cfg c x).ch.l.wellShaped cfg = true ∧ (u.process cfg c x).ch.r.wellShaped cfg = true := by
  have key : ∀ (d : DelayChannel N) (i : Int) (v lp : N), d.wellShaped cfg = true →
      DelayChannel.wellShaped cfg ⟨memWrite cfg.dlyCap d.buf i v cfg, cursorNext cfg.dlyCap d.w, lp⟩ = true := by
    intro d i v lp h
    unfold DelayChannel.wellShaped at *
    rw [Bool.and_eq_true] at *
    exact ⟨memWrite_wf h.1 hc _ _, by rw [Nat.blt_eq]; exact cursorNext_lt hc _⟩
  cases c
  · exact ⟨key _ _ _ _ hl, hr⟩
  · exact ⟨hl, key _ _ _ _ hr⟩

/-! ## The step -/

theorem done_eq_next {s t : State} : done s = .next t ↔ t = s.respond 0#32 0#32 := by
  unfold done; exact ⟨fun h => by cases h; rfl, fun h => by rw [h]⟩

theorem doneWith_eq_next {s t : State} {y : NUM} : doneWith s y = .next t ↔ t = s.respond 0#32 y.bits := by
  unfold doneWith; exact ⟨fun h => by cases h; rfl, fun h => by rw [h]; rfl⟩

theorem doneWithPair_eq_next {s t : State} {y : Stereo NUM} :
    doneWithPair s y = .next t ↔ t = s.respond y.r.bits y.l.bits := by
  unfold doneWithPair; exact ⟨fun h => by cases h; rfl, fun h => by rw [h]; rfl⟩

/-- All that a step can do, with `run` as the meaning of an operation: nothing without a command; otherwise it takes the
first command word and runs the operation it stands for, or answers `RW = 0` when it stands for none. -/
theorem stepWith_cases {run : Instr → State → Result} {s t : State} (h : stepWith run s = .next t) :
    (s.cmds = [] ∧ t = s) ∨
    (∃ cw rest, s.cmds = cw :: rest ∧
      ((∃ i, decode cw = .ok i ∧ run i { s with cmds := rest } = .next t) ∨
       (∃ e, decode cw = .error e ∧ t = ({ s with cmds := rest } : State).respond 0#32 0#32))) := by
  unfold stepWith State.Of.takeCommand at h
  cases hc : s.cmds with
  | nil => rw [hc] at h; cases h; exact .inl ⟨rfl, rfl⟩
  | cons cw rest =>
    rw [hc] at h
    refine .inr ⟨cw, rest, rfl, ?_⟩
    dsimp only at h
    cases hd : decode cw with
    | ok i => rw [hd] at h; exact .inl ⟨i, rfl, h⟩
    | error e => rw [hd] at h; exact .inr ⟨e, rfl, done_eq_next.1 h⟩

theorem step_cases {s t : State} (h : step s = .next t) :
    (s.cmds = [] ∧ t = s) ∨
    (∃ cw rest, s.cmds = cw :: rest ∧
      ((∃ i, decode cw = .ok i ∧ exec i { s with cmds := rest } = .next t) ∨
       (∃ e, decode cw = .error e ∧ t = ({ s with cmds := rest } : State).respond 0#32 0#32))) := stepWith_cases h

/-- The operation map of the reference configuration is `exec` (R7). -/
theorem execIn_reference (i : Instr) (s : State) : execIn Config.reference i s = exec i s := by cases i <;> rfl

/-- The step of the reference configuration is `step` (R7). -/
theorem stepIn_reference (s : State) : stepIn Config.reference s = step s := by
  unfold stepIn step; rw [show execIn Config.reference = exec from funext₂ execIn_reference]

/-! ## PRODUCE in the reference configuration: the spec's body, then the output stage (R168, R172) -/

theorem SineOsc.produce_reference (e : SineOsc NUM) :
    e.produce Config.reference =
      let b := SineOsc.body Config.reference e (e.regs.draws Config.reference)
      let out := finish Config.reference 0 e.regs b
      (out.1, { b.state with regs := out.2 }) := rfl

theorem TriangleOsc.produce_reference (e : TriangleOsc NUM) :
    e.produce Config.reference =
      let b := TriangleOsc.body Config.reference e (e.regs.draws Config.reference)
      let out := finish Config.reference 1 e.regs b
      (out.1, { b.state with regs := out.2 }) := rfl

theorem SquareOsc.produce_reference (e : SquareOsc NUM) :
    e.produce Config.reference =
      let b := SquareOsc.body Config.reference e (e.regs.draws Config.reference)
      let out := finish Config.reference 2 e.regs b
      (out.1, { b.state with regs := out.2 }) := rfl

theorem SawOsc.produce_reference (e : SawOsc NUM) :
    e.produce Config.reference =
      let b := SawOsc.body Config.reference e (e.regs.draws Config.reference)
      let out := finish Config.reference 3 e.regs b
      (out.1, { b.state with regs := out.2 }) := rfl

theorem SupersawBank.produce_reference (e : SupersawBank NUM) :
    e.produce Config.reference =
      let b := SupersawBank.body Config.reference e (e.regs.draws Config.reference)
      let out := finish Config.reference 4 e.regs b
      (out.1, { b.state with regs := out.2 }) := rfl

theorem VirtualAnalog.produce_reference (e : VirtualAnalog NUM) :
    e.produce Config.reference =
      let b := VirtualAnalog.body Config.reference e (e.regs.draws Config.reference)
      let out := finish Config.reference 5 e.regs b
      (out.1, { b.state with regs := out.2 }) := rfl

theorem FmPair.produce_reference (e : FmPair NUM) :
    e.produce Config.reference =
      let b := FmPair.body Config.reference e (e.regs.draws Config.reference)
      let out := finish Config.reference 6 e.regs b
      (out.1, { b.state with regs := out.2 }) := rfl

theorem FormantFilter.produce_reference (e : FormantFilter NUM) :
    e.produce Config.reference =
      let b := FormantFilter.body Config.reference e (e.regs.draws Config.reference)
      let out := finish Config.reference 7 e.regs b
      (out.1, { b.state with regs := out.2 }) := rfl

theorem AdditiveBank.produce_reference (e : AdditiveBank NUM) :
    e.produce Config.reference =
      let b := AdditiveBank.body Config.reference e (e.regs.draws Config.reference)
      let out := finish Config.reference 8 e.regs b
      (out.1, { b.state with regs := out.2 }) := rfl

theorem ChordStack.produce_reference (e : ChordStack NUM) :
    e.produce Config.reference =
      let b := ChordStack.body Config.reference e (e.regs.draws Config.reference)
      let out := finish Config.reference 9 e.regs b
      (out.1, { b.state with regs := out.2 }) := rfl

theorem PluckedString.produce_reference (e : PluckedString NUM) :
    e.produce Config.reference =
      let b := PluckedString.body Config.reference e (e.regs.draws Config.reference)
      let out := finish Config.reference 10 e.regs b
      (out.1, { b.state with regs := out.2 }) := rfl

theorem PwmOsc.produce_reference (e : PwmOsc NUM) :
    e.produce Config.reference =
      let b := PwmOsc.body Config.reference e (e.regs.draws Config.reference)
      let out := finish Config.reference 11 e.regs b
      (out.1, { b.state with regs := out.2 }) := rfl

/-! ## Runs -/

/-- A run of `m + n` steps is one of `m` steps followed by one of `n`. -/
theorem steps_add {m n : Nat} {s t : State} (h : steps m s = .next t) : steps (m + n) s = steps n t := by
  induction m generalizing s with
  | zero => cases h; rw [Nat.zero_add]
  | succ m ih =>
    rw [Nat.succ_add]
    simp only [steps] at h ⊢
    cases hs : step s with
    | next u => rw [hs] at h; exact ih h
    | fault f => exact nomatch f
    | refused r => rw [hs] at h; cases h

theorem runFrames_add [DecidableEq N] (cfg : Config.Parameters N) (m n : Nat) (s : State.Of N) :
    State.Of.runFrames cfg (m + n) s = State.Of.runFrames cfg n (State.Of.runFrames cfg m s) := by
  induction m generalizing s with
  | zero => rw [Nat.zero_add]; rfl
  | succ m ih => rw [Nat.succ_add]; exact ih (s.tick cfg)

end Sys2Proof.Machine
end

