-- ==== Sys2Proof/Laws/Bounds.lean ====
section
/-! SUPPORT. Words bounded by a power of two: what the operators and the transcendental functions keep of such a bound.
From these follows that a result is a number and no NaN. -/

namespace Sys2Proof

set_option Elab.async false

/-- `|a| <= 2^e`; false of a NaN and, for `e < 128`, of an infinity. -/
def NUM.Below (e : Nat) (a : NUM) : Prop := a.mag ≤ (127 + e) * 2 ^ 23

namespace NUM

variable {e m n : Nat} {a b : NUM}

theorem Below.mono (h : a.Below m) (hmn : m ≤ n) : a.Below n :=
  Nat.le_trans h (Nat.mul_le_mul_right _ (by omega))

theorem Below.finite (h : a.Below e) (he : e < 128) : a.mag < infMag := by
  unfold Below at h; unfold infMag; omega

theorem Below.notNaN (h : a.Below e) (he : e < 128) : a.isNaN = false :=
  (isNaN_eq_false_iff a).2 (Nat.le_of_lt (h.finite he))

theorem pow_unitsAbs (he : e < 128) : (ofMag false ((127 + e) * 2 ^ 23)).unitsAbs = 2 ^ (149 + e) := by
  unfold unitsAbs
  rw [ofMag_mag _ _ (by omega), if_neg (by omega), Nat.shiftLeft_eq, Nat.mul_mod_left, Nat.mul_div_cancel _ (by decide),
    zero_add, ← pow_add, show 23 + (127 + e - 1) = 149 + e by omega]

theorem Below.units (h : a.Below e) (he : e < 128) : a.unitsAbs ≤ 2 ^ (149 + e) := by
  rw [← pow_unitsAbs he]; apply unitsAbs_mono; rw [ofMag_mag _ _ (by omega)]; exact h

/-- Rounding keeps a bound by a power of two. -/
theorem roundMag_le_pow {k d : Nat} (hd : 0 < d) (h : k ≤ 2 ^ (149 + e) * d) : roundMag k d ≤ (127 + e) * 2 ^ 23 := by
  rcases Nat.lt_or_ge e 128 with he | he
  · have hm := ofMag_mag false ((127 + e) * 2 ^ 23) (by omega)
    have := roundMag_unitsAbs (ofMag false ((127 + e) * 2 ^ 23)) (by rw [hm]; unfold infMag; omega)
    rw [pow_unitsAbs he, hm] at this
    rw [← this]; apply roundMag_mono hd one_pos; rw [mul_one]; exact h
  · exact (roundMag_le_inf k d).trans (by unfold infMag; omega)

theorem below_ofMag {neg : Bool} {k : Nat} (he : e < 129) (h : k ≤ (127 + e) * 2 ^ 23) : (ofMag neg k).Below e := by
  unfold Below; rw [ofMag_mag _ _ (by omega)]; exact h

theorem below_add (ha : a.Below e) (hb : b.Below e) (he : e < 127) : (a.add b).Below (e + 1) := by
  have hu := ha.units (by omega); have hv := hb.units (by omega)
  have fa : a.isInf = false := by rw [Bool.eq_false_iff, Ne, isInf_iff]; have := ha.finite (by omega); omega
  have fb : b.isInf = false := by rw [Bool.eq_false_iff, Ne, isInf_iff]; have := hb.finite (by omega); omega
  unfold add
  simp only [ha.notNaN (by omega), hb.notNaN (by omega), fa, fb, Bool.or_self, Bool.false_eq_true, ↓reduceIte]
  split
  · exact below_ofMag (by omega) (by omega)
  · apply below_ofMag (by omega)
    apply roundMag_le_pow one_pos
    have h1 : a.units.natAbs ≤ 2 ^ (149 + e) := by unfold NUM.units; split <;> simpa using hu
    have h2 : b.units.natAbs ≤ 2 ^ (149 + e) := by unfold NUM.units; split <;> simpa using hv
    have h3 := Int.natAbs_add_le a.units b.units
    rw [show 149 + (e + 1) = (149 + e) + 1 by omega, pow_succ, mul_one]; omega

theorem below_neg : (neg a).Below e ↔ a.Below e := by
  unfold Below neg; rw [ofMag_mag _ _ a.mag_lt]

theorem below_sub (ha : a.Below e) (hb : b.Below e) (he : e < 127) : (a.sub b).Below (e + 1) :=
  below_add ha (below_neg.2 hb) he

theorem below_mul (ha : a.Below m) (hb : b.Below n) (h : m + n < 128) : (a.mul b).Below (m + n) := by
  have hu := ha.units (by omega); have hv := hb.units (by omega)
  have fa : a.isInf = false := by rw [Bool.eq_false_iff, Ne, isInf_iff]; have := ha.finite (by omega); omega
  have fb : b.isInf = false := by rw [Bool.eq_false_iff, Ne, isInf_iff]; have := hb.finite (by omega); omega
  unfold mul
  simp only [ha.notNaN (by omega), hb.notNaN (by omega), fa, fb, Bool.or_self, Bool.false_eq_true, ↓reduceIte]
  apply below_ofMag (by omega)
  apply roundMag_le_pow (by rw [Nat.shiftLeft_eq]; positivity)
  rw [Nat.shiftLeft_eq, one_mul]
  calc a.unitsAbs * b.unitsAbs ≤ 2 ^ (149 + m) * 2 ^ (149 + n) := Nat.mul_le_mul hu hv
    _ = 2 ^ (149 + (m + n)) * 2 ^ 149 := by rw [← pow_add, ← pow_add]; congr 1; omega

/-- A quotient by a word of at least `2^-k`. -/
theorem below_div {k : Nat} (ha : a.Below m) (hb : b.mag < infMag) (hk : k ≤ 126) (hkb : (127 - k) * 2 ^ 23 ≤ b.mag)
    (h : m + k < 128) : (a.div b).Below (m + k) := by
  have hu := ha.units (by omega)
  have fa : a.isInf = false := by rw [Bool.eq_false_iff, Ne, isInf_iff]; have := ha.finite (by omega); omega
  have fb : b.isInf = false := by rw [Bool.eq_false_iff, Ne, isInf_iff]; omega
  have nb : b.isNaN = false := (isNaN_eq_false_iff b).2 hb.le
  have hz : Nat.beq b.mag 0 = false := by rw [Bool.eq_false_iff, Ne, Nat.beq_eq]; omega
  have hv : 2 ^ (149 - k) ≤ b.unitsAbs := by
    have hm := ofMag_mag false ((127 - k) * 2 ^ 23) (by omega)
    have := unitsAbs_mono (a := ofMag false ((127 - k) * 2 ^ 23)) (b := b) (by rw [hm]; exact hkb)
    refine Nat.le_trans (Nat.le_of_eq ?_) this
    unfold unitsAbs
    rw [hm, if_neg (by omega), Nat.shiftLeft_eq, Nat.mul_mod_left, Nat.mul_div_cancel _ (by decide), zero_add, ← pow_add]
    congr 1; omega
  unfold div
  simp only [ha.notNaN (by omega), nb, fa, fb, hz, Bool.or_self, Bool.false_eq_true, ↓reduceIte]
  apply below_ofMag (by omega)
  apply roundMag_le_pow (lt_of_lt_of_le (by positivity) hv)
  rw [Nat.shiftLeft_eq]
  calc a.unitsAbs * 2 ^ 149 ≤ 2 ^ (149 + m) * 2 ^ 149 := Nat.mul_le_mul_right _ hu
    _ = 2 ^ (149 + (m + k)) * 2 ^ (149 - k) := by rw [← pow_add, ← pow_add]; congr 1; omega
    _ ≤ _ := Nat.mul_le_mul_left _ hv

theorem below_lerp {t : NUM} (ha : a.Below e) (hb : b.Below e) (ht : t.Below n) (h : e + 1 + n < 127) :
    (lerp a b t).Below (e + n + 2) := by
  have := below_add (ha.mono (by omega)) (below_mul ht (below_sub hb ha (by omega)) (by omega)) (e := n + (e + 1)) (by omega)
  exact this.mono (by omega)

theorem below_ftz (ha : a.Below e) : a.ftz.Below e := by
  rcases ftz_eq_or a with h | h <;> rw [h]
  · unfold Below; rw [show zero.mag = 0 by decide +kernel]; omega
  · exact ha

/-- A word between `-2^e` and `2^e`. -/
theorem below_of_within {lo hi : NUM} (h : lo.le a = true) (h' : a.le hi = true) (hlo : lo.Below e) (hhi : hi.Below e) :
    a.Below e := by
  have h1 := ((le_iff _ _).1 h).2.2; have h2 := ((le_iff _ _).1 h').2.2
  unfold Below key at *
  cases hs : a.sign <;> simp only [hs, Bool.false_eq_true, ↓reduceIte] at h1 h2 <;> split at h1 <;> split at h2 <;> omega

theorem below_of_tame (h : a.tame = true) : a.Below 32 := by
  unfold tame within at h; rw [Bool.and_eq_true] at h
  exact below_of_within h.1 h.2 (by unfold Below; decide +kernel) (by unfold Below; decide +kernel)

theorem below_of_inUnit (h : a.inUnit = true) : a.Below 0 := by
  unfold inUnit within at h; rw [Bool.and_eq_true] at h
  exact below_of_within h.1 h.2 (by unfold Below; decide +kernel) (by unfold Below; decide +kernel)

theorem below_of_inPhase (h : a.inPhase = true) : a.Below 0 := by
  unfold inPhase at h; rw [Bool.and_eq_true] at h
  exact below_of_within h.1 (le_of_lt h.2) (by unfold Below; decide +kernel) (by unfold Below; decide +kernel)

/-- `TANH` of a number is at most 1 in magnitude (R165). -/
theorem below_tanh (h : a.isNaN = false) : a.tanh.Below 0 := tanh_mag_le_one a h

theorem below_roundFix {neg : Bool} {k : Nat} (h : k ≤ 2 * fixOne) : (roundFix neg k fixOne).Below 1 := by
  unfold roundFix
  apply below_ofMag (by omega)
  apply roundMag_le_pow fixOne_pos
  rw [Nat.shiftLeft_eq, show 149 + 1 = 150 by rfl, pow_succ 2 149]
  calc k * 2 ^ 149 ≤ 2 * fixOne * 2 ^ 149 := Nat.mul_le_mul_right _ h
    _ = 2 ^ 149 * 2 * fixOne := by ring

/-- `SIN` of a finite word is at most 2 in magnitude; its exact bound, 1, is not needed to exclude a NaN. -/
theorem below_sin (h : a.mag < infMag) : a.sin.Below 1 := by
  unfold sin
  rw [if_pos ((isFinite_iff a).2 h)]
  have hr : quarterRest a ≤ 2 * fixOne := by
    have h1 : quarterRest a < fixHalfPi := Nat.mod_lt _ (by decide +kernel)
    have h2 : fixHalfPi ≤ 2 * fixOne := by decide +kernel
    omega
  apply below_roundFix
  split
  · have : fixSin (quarterRest a) ≤ quarterRest a := by
      unfold fixSin; exact (fixMul_le le_rfl (sinSeries_le _ _ _ le_rfl)).trans (fixMul_one _).le
    omega
  · have := cosSeries_le (fixMul (quarterRest a) (quarterRest a)) 40 fixOne le_rfl
    unfold fixCos; omega


/-! ## Numbers that are not below 0 -/

/-- The word is a number and not below 0; -0.0 is allowed. -/
def Nonneg (a : NUM) : Prop := a.isNaN = false ∧ 0 ≤ a.key

/-- The word is a number and at least 1. -/
def OneLe (a : NUM) : Prop := a.isNaN = false ∧ a.sign = false ∧ 127 * 2 ^ 23 ≤ a.mag

theorem nonneg_iff : a.Nonneg ↔ zero.le a = true := by
  unfold Nonneg
  rw [le_iff, show zero.isNaN = false by decide +kernel, show zero.key = 0 by decide +kernel]; simp

theorem OneLe.nonneg (h : a.OneLe) : a.Nonneg := by
  refine ⟨h.1, ?_⟩; unfold key; rw [h.2.1, if_neg Bool.false_ne_true]; exact Int.natCast_nonneg _

theorem Nonneg.units (h : a.Nonneg) : a.units = a.unitsAbs := by
  have h2 := h.2
  unfold key at h2
  unfold NUM.units
  cases hs : a.sign
  · rfl
  · rw [hs, if_pos rfl] at h2
    have hm : a.mag = 0 := by omega
    have : a.unitsAbs = 0 := by unfold unitsAbs; rw [hm]; rfl
    rw [this]; rfl

theorem nonneg_ofMag {k : Nat} (h : k ≤ infMag) : (ofMag false k).Nonneg := by
  have hl : k < 2 ^ 31 := Nat.lt_of_le_of_lt h (by decide)
  refine ⟨(isNaN_eq_false_iff _).2 (by rw [ofMag_mag _ _ hl]; exact h), ?_⟩
  unfold key; rw [ofMag_sign _ _ hl, if_neg Bool.false_ne_true]; exact Int.natCast_nonneg _

theorem nonneg_ofMag_zero (neg : Bool) : (ofMag neg 0).Nonneg := by cases neg <;> exact ⟨by decide +kernel, by decide +kernel⟩

theorem nonneg_add (ha : a.Nonneg) (hb : b.Nonneg) (fa : a.mag < infMag) (fb : b.mag < infMag) : (a.add b).Nonneg := by
  have ia : a.isInf = false := by rw [Bool.eq_false_iff, Ne, isInf_iff]; omega
  have ib : b.isInf = false := by rw [Bool.eq_false_iff, Ne, isInf_iff]; omega
  unfold add
  simp only [ha.1, hb.1, ia, ib, Bool.or_self, Bool.false_eq_true, ↓reduceIte]
  split
  · exact nonneg_ofMag_zero _
  · rw [ha.units, hb.units, decide_eq_false (by omega)]; exact nonneg_ofMag (roundMag_le_inf _ _)

theorem unitsAbs_of_nonneg_sign (ha : a.Nonneg) (hs : a.sign = true) : a.unitsAbs = 0 := by
  have h2 := ha.2
  unfold key at h2
  rw [hs, if_pos rfl] at h2
  unfold unitsAbs; rw [show a.mag = 0 by omega]; rfl

theorem nonneg_mul (ha : a.Nonneg) (hb : b.Nonneg) (fa : a.mag < infMag) (fb : b.mag < infMag) : (a.mul b).Nonneg := by
  have ia : a.isInf = false := by rw [Bool.eq_false_iff, Ne, isInf_iff]; omega
  have ib : b.isInf = false := by rw [Bool.eq_false_iff, Ne, isInf_iff]; omega
  have hd : (0 : Nat) < 1 <<< 149 := by decide
  unfold mul
  simp only [ha.1, hb.1, ia, ib, Bool.or_self, Bool.false_eq_true, ↓reduceIte]
  cases hs : a.sign
  · cases ht : b.sign
    · exact nonneg_ofMag (roundMag_le_inf _ _)
    · rw [unitsAbs_of_nonneg_sign hb ht, Nat.mul_zero, roundMag_zero hd]; exact nonneg_ofMag_zero _
  · rw [unitsAbs_of_nonneg_sign ha hs, Nat.zero_mul, roundMag_zero hd]; exact nonneg_ofMag_zero _

theorem nonneg_div (ha : a.Nonneg) (hb : b.OneLe) (fa : a.mag < infMag) (fb : b.mag < infMag) : (a.div b).Nonneg := by
  have ia : a.isInf = false := by rw [Bool.eq_false_iff, Ne, isInf_iff]; omega
  have ib : b.isInf = false := by rw [Bool.eq_false_iff, Ne, isInf_iff]; omega
  have hz : Nat.beq b.mag 0 = false := by rw [Bool.eq_false_iff, Ne, Nat.beq_eq]; have := hb.2.2; omega
  unfold div
  simp only [ha.1, hb.1, ia, ib, hz, hb.2.1, Bool.or_self, Bool.false_eq_true, ↓reduceIte]
  cases hs : a.sign
  · exact nonneg_ofMag (roundMag_le_inf _ _)
  · have hd : 0 < b.unitsAbs := by
      have := unitsAbs_mono (a := NUM.one) (b := b) (by rw [show NUM.one.mag = 127 * 2 ^ 23 by decide +kernel]; exact hb.2.2)
      have h1 : 0 < NUM.one.unitsAbs := by decide +kernel
      omega
    rw [unitsAbs_of_nonneg_sign ha hs, Nat.zero_shiftLeft, roundMag_zero hd]; exact nonneg_ofMag_zero _

/-- `1 <= a` and `0 <= b` give `1 <= a + b`. -/
theorem oneLe_add (ha : a.OneLe) (hb : b.Nonneg) (fa : a.mag < infMag) (fb : b.mag < infMag) : (a.add b).OneLe := by
  have ia : a.isInf = false := by rw [Bool.eq_false_iff, Ne, isInf_iff]; omega
  have ib : b.isInf = false := by rw [Bool.eq_false_iff, Ne, isInf_iff]; omega
  have h1 : 2 ^ 149 ≤ a.unitsAbs := by
    have := unitsAbs_mono (a := NUM.one) (b := a) (by rw [show NUM.one.mag = 127 * 2 ^ 23 by decide +kernel]; exact ha.2.2)
    rwa [show NUM.one.unitsAbs = 2 ^ 149 by decide +kernel] at this
  have hpos : (0 : Nat) < 2 ^ 149 := by decide
  unfold add
  simp only [ha.1, hb.1, ia, ib, Bool.or_self, Bool.false_eq_true, ↓reduceIte, ha.nonneg.units, hb.units]
  rw [if_neg (by omega), decide_eq_false (by omega)]
  have hlow : 127 * 2 ^ 23 ≤ roundMag ((a.unitsAbs : Int) + b.unitsAbs).natAbs 1 := by
    have e1 : roundMag (2 ^ 149) 1 = 127 * 2 ^ 23 := by decide +kernel
    rw [← e1]; apply roundMag_mono one_pos one_pos; omega
  have hle := roundMag_le_inf ((a.unitsAbs : Int) + b.unitsAbs).natAbs 1
  have hl : roundMag ((a.unitsAbs : Int) + b.unitsAbs).natAbs 1 < 2 ^ 31 := Nat.lt_of_le_of_lt hle (by decide)
  exact ⟨(isNaN_eq_false_iff _).2 (by rw [ofMag_mag _ _ hl]; exact hle), ofMag_sign _ _ hl, by
    rw [ofMag_mag _ _ hl]; exact hlow⟩

/-- A quotient of a word by one of at least its magnitude. -/
theorem below_div_of_le (na : a.isNaN = false) (nb : b.isNaN = false) (fb : b.mag < infMag) (h0 : 0 < b.mag)
    (h : a.mag ≤ b.mag) : (a.div b).Below 0 := by
  have ia : a.isInf = false := by rw [Bool.eq_false_iff, Ne, isInf_iff]; omega
  have ib : b.isInf = false := by rw [Bool.eq_false_iff, Ne, isInf_iff]; omega
  have hz : Nat.beq b.mag 0 = false := by rw [Bool.eq_false_iff, Ne, Nat.beq_eq]; omega
  have hD : 0 < b.unitsAbs := by
    have := unitsAbs_mono (a := ⟨1#32⟩) (b := b) (by rw [show (NUM.mk 1#32).mag = 1 by decide +kernel]; exact h0)
    rw [show (NUM.mk 1#32).unitsAbs = 1 by decide +kernel] at this; exact this
  unfold div
  simp only [na, nb, ia, ib, hz, Bool.or_self, Bool.false_eq_true, ↓reduceIte]
  apply below_ofMag (by omega)
  apply roundMag_le_pow hD
  rw [Nat.shiftLeft_eq, mul_comm]
  exact Nat.mul_le_mul_left _ (unitsAbs_mono h)

/-- A sum of words that are not below 0 is at least each of them. -/
theorem mag_le_add (ha : a.Nonneg) (hb : b.Nonneg) (fa : a.mag < infMag) (fb : b.mag < infMag) (hs : b.mag ≠ 0) :
    b.mag ≤ (a.add b).mag := by
  have ia : a.isInf = false := by rw [Bool.eq_false_iff, Ne, isInf_iff]; omega
  have ib : b.isInf = false := by rw [Bool.eq_false_iff, Ne, isInf_iff]; omega
  have hpos : 0 < b.unitsAbs := by
    have := unitsAbs_mono (a := ⟨1#32⟩) (b := b) (by rw [show (NUM.mk 1#32).mag = 1 by decide +kernel]; omega)
    rw [show (NUM.mk 1#32).unitsAbs = 1 by decide +kernel] at this; exact this
  unfold add
  simp only [ha.1, hb.1, ia, ib, Bool.or_self, Bool.false_eq_true, ↓reduceIte, ha.units, hb.units]
  rw [if_neg (by omega), ofMag_mag _ _ (Nat.lt_of_le_of_lt (roundMag_le_inf _ _) (by decide)), ← roundMag_unitsAbs b fb]
  apply roundMag_mono one_pos one_pos
  omega

/-! ## The error of one rounding -/

theorem nearest_error (n d : Nat) (hd : 0 < d) : 2 * nearest n d * d ≤ 2 * n + d := by
  have e := Nat.div_add_mod n d
  have hr := Nat.mod_lt n hd
  have hm : n / d % 2 ≤ 1 := by omega
  unfold nearest
  split
  · nlinarith
  · split
    · have : n / d * d = n - n % d := by rw [mul_comm]; omega
      nlinarith
    · have := Nat.div_mul_le_self n d
      rw [mul_assoc]; omega

/-- A significand `r` and a shift `sh` as a word. -/
theorem unitsAbs_pack {sh r : Nat} (neg : Bool) (hr : r ≤ 2 ^ 24) (h0 : 0 < sh → 2 ^ 23 ≤ r)
    (h : sh * 2 ^ 23 + r < 2 ^ 31) : (ofMag neg (sh * 2 ^ 23 + r)).unitsAbs = r * 2 ^ sh := by
  unfold unitsAbs
  rw [ofMag_mag _ _ h, Nat.shiftLeft_eq]
  rcases Nat.lt_or_ge r (2 ^ 23) with h1 | h1
  · have hs : sh = 0 := by by_contra hc; have := h0 (by omega); omega
    rw [hs, if_pos (by omega)]; omega
  · rcases Nat.lt_or_ge r (2 ^ 24) with h2 | h2
    · rw [if_neg (by omega), show (sh * 2 ^ 23 + r) / 2 ^ 23 - 1 = sh by omega,
        show (sh * 2 ^ 23 + r) % 2 ^ 23 + 2 ^ 23 = r by omega]
    · have hr2 : r = 2 ^ 24 := by omega
      rw [if_neg (by omega), show (sh * 2 ^ 23 + r) / 2 ^ 23 - 1 = sh + 1 by omega,
        show (sh * 2 ^ 23 + r) % 2 ^ 23 + 2 ^ 23 = 2 ^ 23 by omega, hr2, pow_succ]
      ring

/-- The units of the word nearest to `n / d` exceed `n / d` by half a unit and a part in 2^24 at most. -/
theorem unitsAbs_roundMag_le (n d : Nat) (hd : 0 < d) (neg : Bool) :
    (ofMag neg (roundMag n d)).unitsAbs * (2 ^ 24 * d) ≤ n * (2 ^ 24 + 1) + 2 ^ 23 * d := by
  have key : (ofMag neg (roundMag n d)).unitsAbs ≤ nearest n (d <<< (Nat.log2 (n / d) - 23)) * 2 ^ (Nat.log2 (n / d) - 23) := by
    have hlt : n / d < 2 ^ (Nat.log2 (n / d) + 1) := Nat.lt_log2_self
    unfold roundMag
    dsimp only
    set sh := Nat.log2 (n / d) - 23 with hsh
    have pd : 0 < d <<< sh := by rw [Nat.shiftLeft_eq]; positivity
    have hr : nearest n (d <<< sh) ≤ 2 ^ 24 := by
      rw [← nearest_mul (2 ^ 24) 1 one_pos]
      apply nearest_mono pd one_pos
      rw [Nat.shiftLeft_eq, mul_one, mul_one]
      have h1 : n / d < 2 ^ (24 + sh) := Nat.lt_of_lt_of_le hlt (Nat.pow_le_pow_right (by decide) (by omega))
      rw [Nat.div_lt_iff_lt_mul hd] at h1
      calc n ≤ 2 ^ (24 + sh) * d := h1.le
        _ = 2 ^ 24 * (d * 2 ^ sh) := by rw [pow_add]; ring
    have h0 : 0 < sh → 2 ^ 23 ≤ nearest n (d <<< sh) := by
      intro hs
      rw [← nearest_mul (2 ^ 23) 1 one_pos]
      apply nearest_mono one_pos pd
      have hne : n / d ≠ 0 := by intro hc; rw [hc] at hsh; simp at hsh; omega
      have h1 : 2 ^ (23 + sh) ≤ n / d :=
        Nat.le_trans (Nat.pow_le_pow_right (by decide) (by omega)) (Nat.log2_self_le hne)
      rw [Nat.le_div_iff_mul_le hd] at h1
      rw [Nat.shiftLeft_eq, mul_one, mul_one]
      calc 2 ^ 23 * (d * 2 ^ sh) = 2 ^ (23 + sh) * d := by rw [pow_add]; ring
        _ ≤ n := h1
    rcases Nat.lt_or_ge infMag (sh * 2 ^ 23 + nearest n (d <<< sh)) with hi | hi
    · rw [min_eq_right hi.le]
      have hs : 254 ≤ sh := by unfold infMag at hi; omega
      have e : (ofMag neg infMag).unitsAbs = 2 ^ 23 * 2 ^ 254 := by cases neg <;> decide +kernel
      rw [e]; exact Nat.mul_le_mul (h0 (by omega)) (Nat.pow_le_pow_right (by decide) hs)
    · rw [min_eq_left hi, unitsAbs_pack neg hr h0 (by unfold infMag at hi; omega)]
  set sh := Nat.log2 (n / d) - 23 with hsh
  have he := nearest_error n (d <<< sh) (by rw [Nat.shiftLeft_eq]; positivity)
  rw [Nat.shiftLeft_eq] at he key
  have hn : 2 ^ 23 * (2 ^ sh * d) ≤ n + 2 ^ 23 * d := by
    rcases Nat.eq_zero_or_pos sh with h0 | h0
    · rw [h0]; omega
    · have hne : n / d ≠ 0 := by intro hc; rw [hc] at hsh; simp at hsh; omega
      have h1 : 2 ^ (23 + sh) ≤ n / d :=
        Nat.le_trans (Nat.pow_le_pow_right (by decide) (by omega)) (Nat.log2_self_le hne)
      rw [Nat.le_div_iff_mul_le hd, pow_add, mul_assoc] at h1
      omega
  calc _ ≤ nearest n (d * 2 ^ sh) * 2 ^ sh * (2 ^ 24 * d) := Nat.mul_le_mul_right _ key
    _ = 2 ^ 23 * (2 * nearest n (d * 2 ^ sh) * (d * 2 ^ sh)) := by ring
    _ ≤ 2 ^ 23 * (2 * n + d * 2 ^ sh) := Nat.mul_le_mul_left _ he
    _ = 2 ^ 24 * n + 2 ^ 23 * (2 ^ sh * d) := by ring
    _ ≤ _ := by rw [Nat.mul_add, mul_one, mul_comm n]; omega

/-! ## Angles and tangents (R403, R295) -/

theorem tan_within {x : NUM} (h0 : x.Nonneg) (h : x.mag ≤ 0x3FB50000) : x.tan.Nonneg ∧ x.tan.Below 17 := by
  have hle : fixOf x ≤ fixOf ⟨0x3FB50000#32⟩ :=
    fixOf_mono (by rw [show (NUM.mk 0x3FB50000#32).mag = 0x3FB50000 by decide +kernel]; exact h)
  have hfin : x.isFinite = true := (isFinite_iff x).2 (Nat.lt_of_le_of_lt h (by decide))
  have hq : quarterTurns x = 0 := Nat.div_eq_of_lt (Nat.lt_of_le_of_lt hle (by decide +kernel))
  have hr : quarterRest x = fixOf x := Nat.mod_eq_of_lt (Nat.lt_of_le_of_lt hle (by decide +kernel))
  have e : x.tan = roundFix x.sign (fixSin (fixOf x)) (fixCos (fixOf x)) := by unfold tan; rw [if_pos hfin, hq, hr]; rfl
  have hrr : fixMul (fixOf x) (fixOf x) ≤ 2 * fixOne := (fixMul_le hle hle).trans (by decide +kernel)
  obtain ⟨s1, -⟩ := fixSin_within (fixOf x) hrr
  obtain ⟨-, c2⟩ := fixCos_within (fixOf x) hrr
  have hone : 17 ≤ fixOne := by decide +kernel
  have hup : roundMag (fixSin (fixOf x) <<< 149) (fixCos (fixOf x)) ≤ (127 + 17) * 2 ^ 23 := by
    apply roundMag_le_pow (by omega)
    have : fixOf x ≤ 2 * fixOne := hle.trans (by decide +kernel)
    rw [Nat.shiftLeft_eq, show 149 + 17 = 17 + 149 by rfl, pow_add 2 17, mul_right_comm]
    apply Nat.mul_le_mul_right
    omega
  rw [e]
  unfold roundFix
  refine ⟨?_, below_ofMag (by omega) hup⟩
  cases hs : x.sign
  · exact nonneg_ofMag (roundMag_le_inf _ _)
  · have hz : fixOf x = 0 := by unfold fixOf; rw [unitsAbs_of_nonneg_sign h0 hs, Nat.zero_shiftLeft]
    rw [hz] at s1 c2 ⊢
    rw [Nat.le_zero.1 s1, Nat.zero_shiftLeft, roundMag_zero (by omega)]
    exact nonneg_ofMag_zero _

theorem isRate_iff : a.isRate = true ↔ a.sign = false ∧ 0x00800000 ≤ a.mag ∧ a.mag < infMag := by
  rw [isRate_def, ftz_def]; unfold denormMinMag
  rw [Bool.and_eq_true, isFinite_iff]
  cases hb : Nat.blt a.mag 0x00800000
  · rw [if_neg Bool.false_ne_true, pos_iff]
    have : 0x00800000 ≤ a.mag := by
      by_contra hc; rw [show Nat.blt a.mag 0x00800000 = true by rw [Nat.blt_eq]; omega] at hb; cases hb
    constructor
    · exact fun h => ⟨h.1.2.1, this, h.2⟩
    · exact fun h => ⟨⟨(isNaN_eq_false_iff a).2 (Nat.le_of_lt h.2.2), h.1, by omega⟩, h.2.2⟩
  · rw [if_pos rfl, show zero.lt zero = false by decide +kernel]
    have : a.mag < 0x00800000 := by rwa [Nat.blt_eq] at hb
    constructor
    · intro h; exact absurd h.1 Bool.false_ne_true
    · intro h; omega

/-- `PI·f/sr` for a frequency up to `0.45·sr`: the angle is in [0, 1.4141], below a quarter turn. -/
theorem angle_within {f sr : NUM} (hsr : sr.isRate = true) (hf : f.Nonneg) (h : f.le ((ofRat 45 100).mul sr) = true)
    (h32 : f.Below 32) :
    ((Config.reference.pi.mul f).div sr).Nonneg ∧ ((Config.reference.pi.mul f).div sr).mag ≤ 0x3FB50000 := by
  obtain ⟨ss, sm, si⟩ := isRate_iff.1 hsr
  have ns : sr.isNaN = false := (isNaN_eq_false_iff sr).2 (Nat.le_of_lt si)
  have is : sr.isInf = false := by rw [Bool.eq_false_iff, Ne, isInf_iff]; omega
  have hS : 2 ^ 23 ≤ sr.unitsAbs := by
    have := unitsAbs_mono (a := ⟨0x00800000#32⟩) (b := sr)
      (by rw [show (NUM.mk 0x00800000#32).mag = 0x00800000 by decide +kernel]; exact sm)
    rwa [show (NUM.mk 0x00800000#32).unitsAbs = 2 ^ 23 by decide +kernel] at this
  have hS0 : 0 < sr.unitsAbs := Nat.lt_of_lt_of_le (by decide) hS
  have fp := below_mul (show Config.reference.pi.Below 2 by unfold Below; decide +kernel) h32 (by omega)
  have np : Config.reference.pi.Nonneg := nonneg_iff.2 (by decide +kernel)
  have ff := h32.finite (by omega)
  have npf := nonneg_mul np hf (by decide +kernel) ff
  -- the product and the quotient as roundings
  have ef : (Config.reference.pi.mul f) = ofMag (Config.reference.pi.sign != f.sign) (roundMag (Config.reference.pi.unitsAbs * f.unitsAbs) (1 <<< 149)) := by
    have i1 : Config.reference.pi.isInf = false := by decide +kernel
    have i2 : f.isInf = false := by rw [Bool.eq_false_iff, Ne, isInf_iff]; omega
    rw [mul]; simp only [np.1, hf.1, i1, i2, Bool.or_self, Bool.false_eq_true, ↓reduceIte]
  have er : (ofRat 45 100).mul sr =
      ofMag ((ofRat 45 100).sign != sr.sign) (roundMag ((ofRat 45 100).unitsAbs * sr.unitsAbs) (1 <<< 149)) := by
    have i1 : (ofRat 45 100).isInf = false := by decide +kernel
    have i2 : (ofRat 45 100).isNaN = false := by decide +kernel
    rw [mul]; simp only [i2, ns, i1, is, Bool.or_self, Bool.false_eq_true, ↓reduceIte]
  have hpos : 0 < 1 <<< 149 := by decide
  have u1 := unitsAbs_roundMag_le (Config.reference.pi.unitsAbs * f.unitsAbs) (1 <<< 149) hpos (Config.reference.pi.sign != f.sign)
  have u2 := unitsAbs_roundMag_le ((ofRat 45 100).unitsAbs * sr.unitsAbs) (1 <<< 149) hpos ((ofRat 45 100).sign != sr.sign)
  rw [← ef] at u1; rw [← er] at u2
  have hF : f.unitsAbs ≤ ((ofRat 45 100).mul sr).unitsAbs := by
    apply unitsAbs_mono
    have h2 := ((le_iff _ _).1 h).2.2
    have h3 := hf.2
    have h4 : ((ofRat 45 100).mul sr).sign = false := by
      rw [er, ofMag_sign _ _ (Nat.lt_of_le_of_lt (roundMag_le_inf _ _) (by decide)), ss]; decide +kernel
    unfold key at h2 h3; rw [h4, if_neg Bool.false_ne_true] at h2
    cases hs : f.sign <;> simp only [hs, Bool.false_eq_true, ↓reduceIte] at h2 h3 <;> omega
  have hP : (Config.reference.pi.mul f).unitsAbs * 2 ^ 149 ≤ 11862016 * 2 ^ 126 * sr.unitsAbs := by
    rw [show Config.reference.pi.unitsAbs = 13176795 * 2 ^ 127 by decide +kernel, Nat.shiftLeft_eq, one_mul] at u1
    rw [show (ofRat 45 100).unitsAbs = 15099494 * 2 ^ 124 by decide +kernel, Nat.shiftLeft_eq, one_mul] at u2
    generalize (Config.reference.pi.mul f).unitsAbs = P at *
    generalize ((ofRat 45 100).mul sr).unitsAbs = C at *
    generalize f.unitsAbs = F at *
    generalize sr.unitsAbs = S at *
    norm_num at u1 u2 ⊢
    linarith
  have ip : (Config.reference.pi.mul f).isInf = false := by
    rw [Bool.eq_false_iff, Ne, isInf_iff]; have := fp.finite (by omega); omega
  have hz : Nat.beq sr.mag 0 = false := by rw [Bool.eq_false_iff, Ne, Nat.beq_eq]; omega
  have hle : roundMag ((Config.reference.pi.mul f).unitsAbs <<< 149) sr.unitsAbs ≤ 0x3FB50000 := by
    rw [show 0x3FB50000 = roundMag (11862016 * 2 ^ 126) 1 by decide +kernel]
    apply roundMag_mono hS0 one_pos
    rw [mul_one, Nat.shiftLeft_eq]; exact hP
  rw [div]
  simp only [npf.1, ns, ip, is, hz, ss, Bool.or_self, Bool.false_eq_true, ↓reduceIte]
  cases hs : (Config.reference.pi.mul f).sign
  · exact ⟨nonneg_ofMag (roundMag_le_inf _ _), by rw [ofMag_mag _ _ (by omega)]; exact hle⟩
  · rw [unitsAbs_of_nonneg_sign npf hs, Nat.zero_shiftLeft, roundMag_zero hS0]
    exact ⟨nonneg_ofMag_zero _, by rw [ofMag_mag _ _ (by omega)]; omega⟩

/-! ## Powers with an exponent that is not above 0 -/

theorem expSeries_le (r n acc : Nat) (hr : 4 * r ≤ 3 * fixOne) (h : acc ≤ 4 * fixOne) : expSeries r n acc ≤ 4 * fixOne := by
  induction n generalizing acc with
  | zero => exact h
  | succ n ih =>
    apply ih
    have h1 : fixMul r acc ≤ 3 * fixOne := by
      have := mul_fixMul_le (a := r) (b := acc) (m := 3 * fixOne) (k := 1) (by nlinarith)
      omega
    have h2 := Nat.div_le_self (fixMul r acc) (n + 1)
    omega

theorem fixExp_le (r : Nat) (hr : 4 * r ≤ 3 * fixOne) : fixExp r ≤ 4 * fixOne :=
  expSeries_le r 72 fixOne hr (by omega)

/-- `POW(b, y)` for a finite `b >= 1` and a finite `y <= 0` is a number between 0 and 8. -/
theorem pow_within (hb : zero.lt b = true) (fb : b.mag < infMag) (hl : 0 ≤ fixLn b) (fa : a.mag < infMag)
    (ha : a.units ≤ 0) : (b.pow a).Nonneg ∧ (b.pow a).Below 3 := by
  unfold pow
  rw [(isFinite_iff b).2 fb, (isFinite_iff a).2 fa, hb]
  simp only [Bool.and_self, ↓reduceIte]
  have ht : a.units * fixLn b / ((1 <<< 149 : Nat) : Int) ≤ 0 :=
    Int.ediv_nonpos_of_nonpos_of_neg (mul_nonpos_of_nonpos_of_nonneg ha hl) (by decide)
  generalize a.units * fixLn b / ((1 <<< 149 : Nat) : Int) = t at ht
  unfold expToNum
  have hln : (0 : Int) < (fixLn2 : Int) := by decide +kernel
  have hk : t / (fixLn2 : Int) ≤ 0 := Int.ediv_nonpos_of_nonpos_of_neg ht hln
  dsimp only
  rw [if_neg (by omega)]
  split
  · exact ⟨⟨by decide +kernel, by decide +kernel⟩, by unfold Below; decide +kernel⟩
  · have hm : fixExp (t - t / (fixLn2 : Int) * (fixLn2 : Int)).toNat ≤ 4 * fixOne := by
      apply fixExp_le
      have h1 := Int.emod_lt_of_pos t hln
      have h2 := Int.emod_def t (fixLn2 : Int)
      have h3 : 4 * fixLn2 ≤ 3 * fixOne := by decide +kernel
      have h4 : (t - t / (fixLn2 : Int) * (fixLn2 : Int)).toNat ≤ fixLn2 := by
        rw [mul_comm]; omega
      omega
    generalize fixExp (t - t / (fixLn2 : Int) * (fixLn2 : Int)).toNat = m at hm
    generalize hj : (t / (fixLn2 : Int) + 151).toNat = j
    have hj2 : j ≤ 151 := by omega
    refine ⟨nonneg_ofMag (roundMag_le_inf _ _), below_ofMag (by omega) (roundMag_le_pow (by decide +kernel) ?_)⟩
    have h5 : (m + 1 <<< 119) >>> 120 ≤ 2 ^ 203 := by
      rw [Nat.shiftRight_eq_div_pow]
      apply Nat.div_le_of_le_mul
      have : 4 * fixOne + 1 <<< 119 ≤ 2 ^ 120 * 2 ^ 203 := by decide +kernel
      exact Nat.le_trans (Nat.add_le_add_right hm _) this
    rw [Nat.shiftLeft_eq _ (149 + j)]
    calc (m + 1 <<< 119) >>> 120 * 2 ^ (149 + j) ≤ 2 ^ 203 * 2 ^ (149 + 151) :=
          Nat.mul_le_mul h5 (Nat.pow_le_pow_right (by decide) (by omega))
      _ ≤ 2 ^ (149 + 3) * 1 <<< 351 := by decide +kernel

/-! ## Increments and step-corrected shapes (R160 to R162) -/

open Machine in
/-- An increment is in [0, 1/2], whatever the frequency is. -/
theorem inc_within (f : NUM) {sr : NUM} (hsr : sr.isRate = true) :
    (inc Config.reference f sr).Nonneg ∧ (inc Config.reference f sr).mag ≤ 126 * 2 ^ 23 := by
  obtain ⟨ss, sm, si⟩ := isRate_iff.1 hsr
  have ns : sr.isNaN = false := (isNaN_eq_false_iff sr).2 (Nat.le_of_lt si)
  have is : sr.isInf = false := by rw [Bool.eq_false_iff, Ne, isInf_iff]; omega
  have hz : Nat.beq sr.mag 0 = false := by rw [Bool.eq_false_iff, Ne, Nat.beq_eq]; omega
  have hf : (f.max zero).Nonneg := by
    rw [NUM.max_def]; split
    · exact nonneg_iff.2 ‹_›
    · exact nonneg_ofMag_zero false
  have hS0 : 0 < sr.unitsAbs := by
    have := unitsAbs_mono (a := ⟨0x00800000#32⟩) (b := sr)
      (by rw [show (NUM.mk 0x00800000#32).mag = 0x00800000 by decide +kernel]; exact sm)
    have h : 0 < (NUM.mk 0x00800000#32).unitsAbs := by decide +kernel
    omega
  have hd : ((f.max zero).div sr).Nonneg := by
    unfold div
    simp only [hf.1, ns, is, hz, ss, Bool.or_self, Bool.false_eq_true, ↓reduceIte]
    cases hs : (f.max zero).sign
    · split <;> exact nonneg_ofMag (by first | exact roundMag_le_inf _ _ | exact le_rfl)
    · have h0 : (f.max zero).isInf = false := by
        have := hf.2; unfold key at this; rw [hs, if_pos rfl] at this
        rw [Bool.eq_false_iff, Ne, isInf_iff]; unfold infMag; omega
      rw [h0, unitsAbs_of_nonneg_sign hf hs, Nat.zero_shiftLeft, roundMag_zero hS0]
      exact nonneg_ofMag_zero _
  have hh : Config.reference.incMax.sign = false ∧ Config.reference.incMax.mag = 126 * 2 ^ 23 ∧
    Config.reference.incMax.isNaN = false := by decide +kernel
  unfold inc
  simp only [Config.reference_toFormat, Config.binary32_min, Config.binary32_max, Config.binary32_div, Config.binary32_zero, NUM.min_def]
  split
  · rename_i h
    have h1 := ((le_iff _ _).1 h).2.2
    have h2 := hd.2
    refine ⟨hd, ?_⟩
    unfold key at h1 h2; rw [hh.1, if_neg Bool.false_ne_true, hh.2.1] at h1
    cases hs : ((f.max zero).div sr).sign <;> simp only [hs, Bool.false_eq_true, ↓reduceIte] at h1 h2 <;> omega
  · exact ⟨⟨hh.2.2, by unfold key; rw [hh.1, if_neg Bool.false_ne_true]; exact Int.natCast_nonneg _⟩, hh.2.1.le⟩

/-- A phase and its parts. -/
theorem inPhase_iff : a.inPhase = true ↔ a.Nonneg ∧ a.mag < 127 * 2 ^ 23 := by
  unfold inPhase
  rw [Bool.and_eq_true, ← nonneg_iff, lt_iff, show one.isNaN = false by decide +kernel,
    show one.key = 127 * 2 ^ 23 by decide +kernel]
  unfold Nonneg key
  cases a.sign <;> simp only [Bool.false_eq_true, ↓reduceIte] <;> constructor <;> rintro ⟨⟨h, h'⟩, h''⟩ <;>
    refine ⟨⟨h, h'⟩, ?_⟩
  · omega
  · exact ⟨h, trivial, by omega⟩
  · omega
  · exact ⟨h, trivial, by omega⟩

open Machine in
/-- `polyblep` in the reference configuration (R161). -/
theorem polyblep_reference (t dt : NUM) : polyblep Config.reference t dt =
    if dt.le zero then zero
    else if t.lt dt then
      (((t.div dt).add (t.div dt)).sub ((t.div dt).mul (t.div dt))).sub one
    else if (one.sub dt).lt t then
      ((((((t.sub one).div dt).mul ((t.sub one).div dt)).add ((t.sub one).div dt)).add ((t.sub one).div dt)).add one)
    else zero := rfl

open Machine in
/-- The step correction of a phase for an increment in [0, 1/2] is a number of bounded size. -/
theorem below_polyblep {t dt : NUM} (ht : t.inPhase = true) (hd : dt.Nonneg) (hd2 : dt.mag ≤ 126 * 2 ^ 23) :
    (polyblep Config.reference t dt).Below 56 := by
  obtain ⟨ht0, ht1⟩ := inPhase_iff.1 ht
  have bt : t.Below 0 := by unfold Below; omega
  have bd : dt.Below 0 := by unfold Below; omega
  have b1 : one.Below 0 := by unfold Below; decide +kernel
  rw [polyblep_reference]
  split
  · unfold Below; rw [show zero.mag = 0 by decide +kernel]; omega
  · rename_i hle
    have hkey : 0 < dt.key := by
      by_contra hc
      apply hle
      rw [le_iff, show zero.isNaN = false by decide +kernel, show zero.key = 0 by decide +kernel]
      exact ⟨hd.1, rfl, by omega⟩
    have hds : dt.sign = false := by
      by_contra hc; rw [Bool.not_eq_false] at hc; unfold key at hkey; rw [hc, if_pos rfl] at hkey; omega
    have hdk : dt.key = dt.mag := by unfold key; rw [hds, if_neg Bool.false_ne_true]
    have hd0 : 0 < dt.mag := by omega
    split
    · rename_i hlt
      have hmag : t.mag ≤ dt.mag := by
        have h1 := ((lt_iff _ _).1 hlt).2.2
        have h2 := ht0.2
        rw [hdk] at h1
        unfold key at h1 h2
        cases hs : t.sign <;> simp only [hs, Bool.false_eq_true, ↓reduceIte] at h1 h2 <;> omega
      have hu := below_div_of_le ht0.1 hd.1 (bd.finite (by omega)) hd0 hmag
      have h1 := below_add hu hu (by omega)
      have h2 := below_mul hu hu (by omega)
      have h3 := below_sub h1 (h2.mono (by omega)) (by omega)
      exact (below_sub h3 (b1.mono (by omega)) (by omega)).mono (by omega)
    · split
      · rename_i hlt
        have hd25 : (127 - 25) * 2 ^ 23 ≤ dt.mag := by
          by_contra hc
          have hs1 : (one.sub dt).OneLe ∨ one.key ≤ (one.sub dt).key := by
            right
            have hD : dt.unitsAbs ≤ 2 ^ 124 := by
              have := unitsAbs_mono (a := dt) (b := ⟨855638016#32⟩)
                (by rw [show (NUM.mk 855638016#32).mag = 102 * 2 ^ 23 by decide +kernel]; omega)
              rwa [show (NUM.mk 855638016#32).unitsAbs = 2 ^ 124 by decide +kernel] at this
            have e1 : one.units = 2 ^ 149 := by decide +kernel
            have e2 : dt.neg.units = -(dt.unitsAbs : Int) := by
              unfold NUM.units neg
              rw [ofMag_sign _ _ dt.mag_lt, hds]
              simp only [Bool.not_false, ↓reduceIte]
              congr 2
              unfold unitsAbs; rw [ofMag_mag _ _ dt.mag_lt]
            have i1 : one.isInf = false ∧ one.isNaN = false := by decide +kernel
            have i2 : dt.neg.isInf = false := by
              rw [Bool.eq_false_iff, Ne, isInf_iff]; unfold neg infMag; rw [ofMag_mag _ _ dt.mag_lt]; omega
            have i3 : dt.neg.isNaN = false := by
              rw [isNaN_eq_false_iff]; unfold neg infMag; rw [ofMag_mag _ _ dt.mag_lt]; omega
            have hD2 : (dt.unitsAbs : Int) ≤ 2 ^ 124 := by exact_mod_cast hD
            have hcmp : (2 : Int) ^ 124 < 2 ^ 149 := by norm_num
            have hlow : 127 * 2 ^ 23 ≤ roundMag (one.units + dt.neg.units).natAbs 1 := by
              rw [show 127 * 2 ^ 23 = roundMag (2 ^ 149 - 2 ^ 124) 1 by decide +kernel]
              apply roundMag_mono one_pos one_pos
              rw [mul_one, mul_one, e1, e2]
              have : (2 : Nat) ^ 124 < 2 ^ 149 := by norm_num
              zify [this.le]
              rw [abs_of_nonneg (by linarith)]
              linarith
            have hle2 := roundMag_le_inf (one.units + dt.neg.units).natAbs 1
            have e3 : one.sub dt = ofMag false (roundMag (one.units + dt.neg.units).natAbs 1) := by
              rw [sub, add]
              simp only [i1.1, i1.2, i2, i3, Bool.or_self, Bool.false_eq_true, ↓reduceIte]
              rw [if_neg (by rw [e1, e2]; linarith), decide_eq_false (by rw [e1, e2]; linarith)]
            rw [e3, show one.key = 127 * 2 ^ 23 by decide +kernel]
            unfold key
            rw [ofMag_sign _ _ (Nat.lt_of_le_of_lt hle2 (by decide)), if_neg Bool.false_ne_true,
              ofMag_mag _ _ (Nat.lt_of_le_of_lt hle2 (by decide))]
            exact_mod_cast hlow
          have h1 := ((lt_iff _ _).1 hlt).2.2
          have h2 : t.key ≤ t.mag := by unfold key; split <;> omega
          rw [show one.key = 127 * 2 ^ 23 by decide +kernel] at hs1
          rcases hs1 with h | h
          · have h3 := h.2.2; have h4 := h.2.1
            have : (one.sub dt).key = (one.sub dt).mag := by unfold key; rw [h4, if_neg Bool.false_ne_true]
            omega
          · omega
        have hu := below_div (below_sub bt b1 (by omega)) (bd.finite (by omega)) (k := 25) (by omega) hd25 (by omega)
        have h1 := below_mul hu hu (by omega)
        have h2 := below_add h1 (hu.mono (by omega)) (by omega)
        have h3 := below_add h2 (hu.mono (by omega)) (by omega)
        exact (below_add h3 (b1.mono (by omega)) (by omega)).mono (by omega)
      · unfold Below; rw [show zero.mag = 0 by decide +kernel]; omega

open Machine in
theorem below_blsaw {p dt : NUM} (hp : p.inPhase = true) (hd : dt.Nonneg) (hd2 : dt.mag ≤ 126 * 2 ^ 23) :
    (blsaw Config.reference p dt).Below 58 := by
  have b1 : one.Below 0 := by unfold Below; decide +kernel
  have h := below_mul (show two.Below 1 by unfold Below; decide +kernel) (below_of_inPhase hp) (by omega)
  exact (below_sub ((below_sub (h.mono (by omega)) (b1.mono (by omega)) (e := 1) (by omega)).mono (by omega))
    (below_polyblep hp hd hd2) (by omega)).mono (by omega)

theorem wrap1_inPhase' (p : NUM) : p.wrap1.inPhase = true := by
  unfold inPhase; rw [Bool.and_eq_true]; exact wrap1_inPhase p

open Machine in
theorem below_blpulse {p dt : NUM} (pw : NUM) (hp : p.inPhase = true) (hd : dt.Nonneg) (hd2 : dt.mag ≤ 126 * 2 ^ 23) :
    (blpulse Config.reference p dt pw).Below 58 := by
  have b1 : one.Below 0 := by unfold Below; decide +kernel
  have h : (if p.lt pw then one else one.neg).Below 0 := by split; exacts [b1, below_neg.2 b1]
  unfold blpulse
  exact below_sub (below_add (h.mono (by omega)) (below_polyblep hp hd hd2) (by omega))
    ((below_polyblep (wrap1_inPhase' _) hd hd2).mono (by omega)) (by omega)

open Machine in
theorem below_sinTurn {p : NUM} (hp : p.Below 0) : (sinTurn Config.reference p).Below 1 :=
  below_sin ((below_mul (show Config.reference.twoPi.Below 3 by unfold Below; decide +kernel) hp (by omega)).finite (by omega))

open Machine in
/-- The brightness filter (R167). -/
theorem below_bright {r : EngineRegs NUM} {lp x : NUM} (hr : r.harm.inUnit = true) (hl : lp.Below e) (hx : x.Below e)
    (h : e < 120) : (bright Config.reference r lp x).Below (e + 4) := by
  have c : Config.reference.brightMin.Below 0 ∧ (one.sub Config.reference.brightMin).Below 0 := by
    unfold Below; decide +kernel
  have ha : (Config.reference.brightMin.add ((one.sub Config.reference.brightMin).mul r.harm)).Below 1 :=
    below_add (e := 0) c.1 (below_mul (m := 0) (n := 0) c.2 (below_of_inUnit hr) (by omega)) (by omega)
  have hb := below_mul ha (below_sub hx hl (by omega)) (by omega)
  have hc := below_add (hl.mono (show e ≤ 1 + (e + 1) by omega)) hb (by omega)
  have hm := hc.mono (show 1 + (e + 1) + 1 ≤ e + 4 by omega)
  unfold bright
  exact below_ftz hm

open Machine in
/-- A draw as a bipolar value (R163). -/
theorem below_rngBipolar (s : BitVec 32) : (rngBipolar Config.reference s).Below 2 := by
  unfold rngBipolar
  have h : (Config.reference.rngOut s).Below 0 := by
    apply below_of_inPhase; unfold inPhase; rw [Bool.and_eq_true]; exact rngOut_inPhase _
  have h2 := below_mul (show two.Below 1 by unfold Below; decide +kernel) h (by omega)
  exact below_sub h2 (show one.Below 1 by unfold Below; decide +kernel) (by omega)

open Machine in
/-- The noise floor (R164). -/
theorem below_noise (r : EngineRegs NUM) : (r.noise Config.reference).Below 2 := by
  unfold EngineRegs.noise
  have hn : Config.reference.noiseAmp.Below 0 := by unfold Below; decide +kernel
  exact (below_mul hn (below_rngBipolar _) (by omega)).mono (by omega)

open Machine in
/-- A sample of the output stage is a number when the raw sample is (R166). -/
theorem outLevel_notNaN {k : Nat} {r : EngineRegs NUM} {x : NUM} (hl : r.level.inUnit = true) (hx : x.Below e) (he : e < 120) :
    (outLevel Config.reference k r x).isNaN = false := by
  have hs := below_add (hx.mono (show e ≤ e + 2 by omega)) ((below_noise r).mono (by omega)) (by omega)
  have ht := below_tanh (hs.notNaN (by omega))
  have hg : (Config.reference.engineGain k).Below 0 := by unfold Below; rw [Config.reference_engineGain]; decide +kernel
  exact (below_mul (below_mul (below_of_inUnit hl) hg (by omega)) ht (by omega)).notNaN (by omega)

/-! ## Integers -/

theorem units_mono (h : a.key ≤ b.key) : a.units ≤ b.units := by
  unfold key at h
  unfold NUM.units
  cases hs : a.sign <;> cases ht : b.sign <;> simp only [hs, ht, Bool.false_eq_true, ↓reduceIte] at h ⊢
  · have := unitsAbs_mono (a := a) (b := b) (by omega); omega
  · have ha : a.mag = 0 := by omega
    have hb : b.mag = 0 := by omega
    have e1 : a.unitsAbs = 0 := by unfold unitsAbs; rw [ha]; rfl
    have e2 : b.unitsAbs = 0 := by unfold unitsAbs; rw [hb]; rfl
    omega
  · omega
  · have := unitsAbs_mono (a := b) (b := a) (by omega); omega

theorem floor_eq (fa : a.mag < infMag) : a.floor = a.units / (2 : Int) ^ 149 := by
  unfold floor; rw [if_pos ((isFinite_iff a).2 fa)]; rfl

/-- `floor` keeps the order (R10). -/
theorem floor_mono (fb : b.mag < infMag) (fa : a.mag < infMag) (h : a.le b = true) : a.floor ≤ b.floor := by
  rw [floor_eq fa, floor_eq fb]
  exact Int.ediv_le_ediv (by positivity) (units_mono ((le_iff _ _).1 h).2.2)

theorem floor_within (h : a.Below e) (he : e < 128) : -(2 : Int) ^ e ≤ a.floor ∧ a.floor ≤ (2 : Int) ^ e := by
  rw [floor_eq (h.finite he)]
  have hu := h.units he
  have hp : (0 : Int) < 2 ^ 149 := by positivity
  have hu2 : (a.unitsAbs : Int) ≤ 2 ^ e * 2 ^ 149 := by
    rw [← pow_add, add_comm e]; exact_mod_cast hu
  have h1 : a.units ≤ 2 ^ e * 2 ^ 149 ∧ -(2 ^ e * 2 ^ 149) ≤ a.units := by
    unfold NUM.units; split <;> constructor <;> linarith [Int.natCast_nonneg a.unitsAbs]
  exact ⟨by rw [Int.le_ediv_iff_mul_le hp]; linarith, Int.ediv_le_of_le_mul hp h1.1⟩

theorem below_ofInt {i : Int} (h : i.natAbs ≤ 2 ^ e) (he : e < 129) : (ofInt i).Below e := by
  unfold ofInt ofRat
  apply below_ofMag he
  apply roundMag_le_pow one_pos
  rw [Nat.shiftLeft_eq, mul_one, add_comm 149, pow_add]
  exact Nat.mul_le_mul_right _ h

/-! ## Interpolation -/

theorem nonneg_of_units {a b : NUM} (na : a.isNaN = false) (nb : b.isNaN = false) (fa : a.mag < infMag) (fb : b.mag < infMag)
    (h : 0 ≤ a.units + b.units) : (a.add b).Nonneg := by
  have ia : a.isInf = false := by rw [Bool.eq_false_iff, Ne, isInf_iff]; omega
  have ib : b.isInf = false := by rw [Bool.eq_false_iff, Ne, isInf_iff]; omega
  unfold add
  simp only [na, nb, ia, ib, Bool.or_self, Bool.false_eq_true, ↓reduceIte]
  split
  · exact nonneg_ofMag_zero _
  · rw [decide_eq_false (by omega)]; exact nonneg_ofMag (roundMag_le_inf _ _)

/-- Between two numbers that are not below 0 no interpolated value is. -/
theorem nonneg_lerp {t : NUM} (ha : a.Nonneg) (hb : b.Nonneg) (ba : a.Below e) (bb : b.Below e) (ht : t.Nonneg)
    (bt : t.Below 0) (he : e < 120) : (lerp a b t).Nonneg := by
  have bs := below_sub bb ba (by omega)
  have bp := below_mul bt bs (by omega)
  have fs := bs.finite (by omega)
  have fp := bp.finite (by omega)
  have fa := ba.finite (by omega)
  rcases le_or_gt 0 (b.sub a).key with h | h
  · exact nonneg_add ha (nonneg_mul ht ⟨bs.notNaN (by omega), h⟩ (bt.finite (by omega)) fs) fa fp
  · apply nonneg_of_units ha.1 (bp.notNaN (by omega)) fa fp
    -- the difference is at most `a` in magnitude, and so is its part
    have hd : (b.sub a).mag ≤ a.mag := by
      have ia : a.neg.isInf = false := by
        rw [Bool.eq_false_iff, Ne, isInf_iff]; unfold neg; rw [ofMag_mag _ _ a.mag_lt]; omega
      have na : a.neg.isNaN = false := by
        rw [isNaN_eq_false_iff]; unfold neg; rw [ofMag_mag _ _ a.mag_lt]; omega
      have ib : b.isInf = false := by rw [Bool.eq_false_iff, Ne, isInf_iff]; have := bb.finite (by omega); omega
      have un : a.neg.units = -(a.unitsAbs : Int) := by
        have e1 : a.neg.unitsAbs = a.unitsAbs := by unfold unitsAbs neg; rw [ofMag_mag _ _ a.mag_lt]
        unfold NUM.units
        rw [e1, show a.neg.sign = !a.sign from ofMag_sign _ _ a.mag_lt]
        cases hs : a.sign
        · rfl
        · rw [unitsAbs_of_nonneg_sign ha hs]; rfl
      unfold sub add at h ⊢
      simp only [hb.1, na, ib, ia, Bool.or_self, Bool.false_eq_true, ↓reduceIte] at h ⊢
      split
      · rename_i h0; rw [if_pos h0] at h; exact absurd (nonneg_ofMag_zero (b.sign && a.neg.sign)).2 (by omega)
      · rename_i h0
        rw [if_neg h0] at h
        have hneg : b.units + a.neg.units < 0 := by
          by_contra hc
          rw [decide_eq_false hc] at h
          exact absurd (nonneg_ofMag (roundMag_le_inf (b.units + a.neg.units).natAbs 1)).2 (by omega)
        rw [ofMag_mag _ _ (Nat.lt_of_le_of_lt (roundMag_le_inf _ _) (by decide)), ← roundMag_unitsAbs a fa]
        apply roundMag_mono one_pos one_pos
        rw [un, hb.units] at hneg ⊢
        omega
    have hm := mul_mag_le (b.sub a) t fs bt
    have hcomm : (t.mul (b.sub a)).mag = ((b.sub a).mul t).mag := by
      have i1 : t.isInf = false := by rw [Bool.eq_false_iff, Ne, isInf_iff]; have := bt.finite (by omega); omega
      have i2 : (b.sub a).isInf = false := by rw [Bool.eq_false_iff, Ne, isInf_iff]; omega
      have n2 := bs.notNaN (e := e + 1) (by omega)
      rw [mul, mul]
      simp only [ht.1, n2, i1, i2, Bool.or_self, Bool.false_eq_true, ↓reduceIte, Nat.mul_comm t.unitsAbs]
      rw [ofMag_mag _ _ (Nat.lt_of_le_of_lt (roundMag_le_inf _ _) (by decide)),
        ofMag_mag _ _ (Nat.lt_of_le_of_lt (roundMag_le_inf _ _) (by decide))]
    have hu : (t.mul (b.sub a)).unitsAbs ≤ a.unitsAbs := unitsAbs_mono (by omega)
    rw [ha.units]
    have : -((t.mul (b.sub a)).unitsAbs : Int) ≤ (t.mul (b.sub a)).units := by
      unfold NUM.units; split <;> omega
    omega

/-! ## Sums, banks and buffers -/

/-- A sum of terms, one after the other. -/
theorem below_foldl {term : Nat → NUM} (l : List Nat) (m : Nat) (acc : NUM) (ha : acc.Below m)
    (ht : ∀ i ∈ l, (term i).Below m) (h : m + l.length < 128) :
    (l.foldl (fun acc i => acc.add (term i)) acc).Below (m + l.length) := by
  induction l generalizing acc m with
  | nil => exact ha
  | cons i l ih =>
    rw [List.length_cons] at h ⊢
    have := ih (m + 1) (acc.add (term i)) (below_add ha (ht i (by simp)) (by omega))
      (fun j hj => (ht j (by simp [hj])).mono (by omega)) (by omega)
    rw [List.foldl_cons]
    exact this.mono (by omega)

open Machine in
theorem bankGet_inPhase {k : Nat} {b : Bank k NUM} (h : b.inPhase = true) (i : Nat) : (bankGet b i).inPhase = true := by
  unfold bankGet; unfold Bank.inPhase at h
  rw [List.getD_eq_getElem?_getD]
  rcases hh : b.words[i]? with _ | v
  · decide +kernel
  · exact List.all_eq_true.1 h v (List.mem_of_getElem? hh)

open Machine in
theorem below_bankGet {k : Nat} {b : Bank k NUM} (h : b.tame = true) (i : Nat) : (bankGet b i).Below 32 := by
  unfold bankGet; unfold Bank.tame at h
  rw [List.getD_eq_getElem?_getD]
  rcases hh : b.words[i]? with _ | v
  · unfold Below; decide +kernel
  · exact below_of_tame (List.all_eq_true.1 h v (List.mem_of_getElem? hh))

open Machine in
/-- A read of a buffer whose words are of ordinary size, at any index. -/
theorem below_memRead {m : Memory NUM} (h : Memory.tame m = true) (cap : Nat) (i : Int) : (memRead cap m i).Below 32 := by
  unfold memRead
  generalize wrapIndex cap i = k
  induction m with
  | nil => unfold Below; simp only [memGet]; decide +kernel
  | cons c t ih =>
    unfold Memory.tame at h ih
    rw [List.all_cons, Bool.and_eq_true] at h
    obtain ⟨k', v⟩ := c
    unfold memGet
    split
    · exact below_of_tame h.1
    · exact ih h.2

end NUM

end Sys2Proof
end

