-- ==== Sys2Proof/Laws/Admissible.lean ====
section
/-! SUPPORT. What the premise on a configuration gives (R7, R89): every capacity, every period and every line length is
positive, so the operations on the buffers keep their canonical form and their cursors inside. -/

namespace Sys2Proof.Machine

variable {N : Type} [DecidableEq N] {cfg : Config.Parameters N}

theorem dlyCap_pos (h : cfg.Admissible) : 0 < cfg.dlyCap := by
  have h1 : 1 ≤ ⌊cfg.value cfg.sr⌋ := Int.le_floor.2 (by exact_mod_cast h.globals.sr.2)
  unfold Config.Parameters.dlyCap; rw [h.arithmetic.floor _ h.globals.sr.1]; omega

theorem strCap_pos (h : cfg.Admissible) : 0 < cfg.strCap := Nat.lt_of_lt_of_le (by decide) h.stringPwm.strCap

theorem strStrikePeriod_pos (h : cfg.Admissible) : 0 < cfg.strStrikePeriod := h.stringPwm.strStrikePeriod

theorem pwmDriftPeriod_pos (h : cfg.Admissible) : 0 < cfg.pwmDriftPeriod := h.stringPwm.pwmDriftPeriod

theorem choCap_pos (h : cfg.Admissible) : 0 < cfg.choCap := by
  have hb : 8 / 1000 < cfg.value cfg.choBase := h.effects.choBase.2
  have hs : 1 ≤ cfg.value cfg.sr := h.globals.sr.2
  have hc := h.effects.choCap
  have : (0 : ℚ) < cfg.choCap := by nlinarith
  exact_mod_cast this

theorem getD_pos {l : List Nat} (h : (l.all fun n => Nat.ble 1 n) = true) (j : Nat) : 0 < l.getD j 1 := by
  rw [List.getD_eq_getElem?_getD]
  rcases hh : l[j]? with _ | v
  · exact one_pos
  · exact Nat.le_of_ble_eq_true (List.all_eq_true.1 h v (List.mem_of_getElem? hh))

/-- Every comb line has a word (R89). -/
theorem revCombLen_pos (h : cfg.Admissible) (c : Chan) (j : Nat) : 0 < revCombLen cfg c j := by
  have hp := h.effects.revPositive
  unfold Config.lengthsPositive at hp
  simp only [List.all_append, Bool.and_eq_true] at hp
  cases c
  · exact getD_pos hp.1.1.1 j
  · exact getD_pos hp.1.1.2 j

/-- Every allpass line has a word (R89). -/
theorem revApLen_pos (h : cfg.Admissible) (c : Chan) (j : Nat) : 0 < revApLen cfg c j := by
  have hp := h.effects.revPositive
  unfold Config.lengthsPositive at hp
  simp only [List.all_append, Bool.and_eq_true] at hp
  cases c
  · exact getD_pos hp.1.2 j
  · exact getD_pos hp.2 j

/-- A cleared line is well shaped. -/
theorem line_clear_wellShaped {len : Nat} (h : 0 < len) : (Line.clear : Line N).wellShaped cfg len = true := by
  unfold Line.wellShaped Line.clear; simp [memory_wf_nil, h]

/-- A write at the cursor keeps a line well shaped (R464, R465). -/
theorem Line.push_wellShaped {l : Line N} {len : Nat} (h : 0 < len) (hl : l.wellShaped cfg len = true) (v : N) :
    (l.push cfg len v).wellShaped cfg len = true := by
  unfold Line.wellShaped Line.push at *
  rw [Bool.and_eq_true] at *
  exact ⟨memWrite_wf hl.1 h _ _, by rw [Nat.blt_eq]; exact cursorNext_lt h _⟩

/-! ## The engines with a shape, whatever their body (R59, R172) -/

/-- `E6.PRODUCE` keeps the counter below its period. -/
theorem FmPair.produce_wellShaped (h : cfg.Admissible) {e : FmPair N} (he : e.wellShaped = true) :
    (e.produce cfg).2.wellShaped = true := by
  unfold FmPair.produce
  rcases hb : cfg.engineBody.fm with _ | f
  · exact Eq.mpr Nat.blt_eq (Nat.mod_lt _ (by decide))
  · exact h.bodies.fm.shape f hb e _ he

/-- `E10.PRODUCE` keeps the two buffers, the cursor and the counter in shape. -/
theorem PluckedString.produce_wellShaped (h : cfg.Admissible) {e : PluckedString N} (he : e.wellShaped cfg = true) :
    (e.produce cfg).2.wellShaped cfg = true := by
  unfold PluckedString.produce
  rcases hb : cfg.engineBody.pluckedString with _ | f
  · unfold PluckedString.wellShaped at he ⊢
    simp only [Bool.and_eq_true] at he ⊢
    exact ⟨⟨⟨memWrite_wf he.1.1.1 (strCap_pos h) _ _, memWrite_wf he.1.1.2 (strCap_pos h) _ _⟩,
      Eq.mpr Nat.blt_eq (cursorNext_lt (strCap_pos h) _)⟩, Eq.mpr Nat.blt_eq (Nat.mod_lt _ (strStrikePeriod_pos h))⟩
  · exact h.bodies.pluckedString.shape f hb e _ he

/-- `E11.PRODUCE` keeps the counter below its period. -/
theorem PwmOsc.produce_wellShaped (h : cfg.Admissible) {e : PwmOsc N} (he : e.wellShaped cfg = true) :
    (e.produce cfg).2.wellShaped cfg = true := by
  unfold PwmOsc.produce
  rcases hb : cfg.engineBody.pwm with _ | f
  · exact Eq.mpr Nat.blt_eq (Nat.mod_lt _ (pwmDriftPeriod_pos h))
  · exact h.bodies.pwm.shape f hb e _ he

end Sys2Proof.Machine
end

