-- ==== Sys2Proof/Laws/Format.lean ====
section
/-! SUPPORT. What the primitives of R10, R12 and R13 keep in every number format with the order that
`Config.Format.OrderAdmissible` asks for. Laws/Num.lean has them in the reference format. -/

namespace Sys2Proof.Config.Format.OrderAdmissible

variable {N : Type} {F : Format N}

theorem le_self (h : F.OrderAdmissible) {a : N} (ha : F.isNaN a = false) : F.le a a = true :=
  (h.le_total a a ha ha).elim id id

theorem le_of_lt (h : F.OrderAdmissible) {a b : N} (hab : F.lt a b = true) : F.le a b = true := ((h.lt_iff a b).1 hab).1

/-- `clamp` stays between its bounds (R10). -/
theorem clamp_within (h : F.OrderAdmissible) (v : N) {lo hi : N} (hb : F.le lo hi = true) :
    F.le lo (F.clamp v lo hi) = true ∧ F.le (F.clamp v lo hi) hi = true := by
  obtain ⟨nl, nh⟩ := h.le_notNaN _ _ hb
  have hl := h.le_self nl
  have hh := h.le_self nh
  unfold clamp min max
  split_ifs <;> exact ⟨by assumption, by assumption⟩

/-- `san` stays between its bounds, NaN included (R10, R13). -/
theorem san_within (h : F.OrderAdmissible) (v : N) {lo hi : N} (hb : F.le lo hi = true) :
    F.le lo (F.san v lo hi) = true ∧ F.le (F.san v lo hi) hi = true := by
  unfold san; split
  · exact ⟨h.le_self (h.le_notNaN _ _ hb).1, hb⟩
  · exact h.clamp_within v hb

/-- A wrapped phase is in [0, 1), whatever the argument (R10, log 7). -/
theorem wrap1_inPhase (h : F.OrderAdmissible) (h01 : F.lt F.zero F.one = true) (p : N) :
    F.le F.zero (F.wrap1 p) = true ∧ F.lt (F.wrap1 p) F.one = true := by
  unfold wrap1; dsimp only; split
  · rename_i hc; simpa using hc
  · exact ⟨h.le_self (h.le_notNaN _ _ (h.le_of_lt h01)).1, h01⟩

end Sys2Proof.Config.Format.OrderAdmissible

namespace Sys2Proof.Config.Format

variable {N : Type} {F : Format N}

/-- `ftz` gives 0 or its argument (R12). -/
theorem ftz_eq_or (F : Format N) (v : N) : F.ftz v = F.zero ∨ F.ftz v = v := by unfold ftz; split <;> simp

/-- `ftz` keeps a bound from below by a word that is 0 or less, and one from above by a word that is 0 or more. -/
theorem le_ftz {lo v : N} (h0 : F.le lo F.zero = true) (h : F.le lo v = true) : F.le lo (F.ftz v) = true := by
  rcases F.ftz_eq_or v with e | e <;> rw [e] <;> assumption

theorem ftz_le {v hi : N} (h0 : F.le F.zero hi = true) (h : F.le v hi = true) : F.le (F.ftz v) hi = true := by
  rcases F.ftz_eq_or v with e | e <;> rw [e] <;> assumption

theorem ftz_lt {v hi : N} (h0 : F.lt F.zero hi = true) (h : F.lt v hi = true) : F.lt (F.ftz v) hi = true := by
  rcases F.ftz_eq_or v with e | e <;> rw [e] <;> assumption

end Sys2Proof.Config.Format
end

