-- ==== Sys2Proof/Laws/MaxFrames.lean ====
section
/-! SUPPORT. No meaning reads `MAX_FRAMES` and no bound speaks of it (R6, R496, R553 (a)): the block runs the same for every
value of it. One lemma for each function that recurses; everything between them agrees by definition. -/

namespace Sys2Proof.Machine

variable {N : Type} (cfg : Config.Parameters N) (M : BitVec 32)

theorem rngSkip_withMaxFrames (n : Nat) (s : BitVec 32) : rngSkip (cfg.withMaxFrames M) n s = rngSkip cfg n s := by
  induction n generalizing s with
  | zero => rfl
  | succ n ih => exact ih _

theorem ladderOut_withMaxFrames (h : N) (l : List N) (y : N) :
    ladderOut (cfg.withMaxFrames M) h l y = ladderOut cfg h l y := by
  induction l generalizing y with
  | nil => rfl
  | cons s t ih => exact ih _

theorem ladderStates_withMaxFrames (h : N) (l : List N) (y : N) :
    ladderStates (cfg.withMaxFrames M) h l y = ladderStates cfg h l y := by
  induction l generalizing y with
  | nil => rfl
  | cons s t ih => simp only [ladderStates]; rw [ih]; rfl

theorem memGet_withMaxFrames (m : Memory N) (i : Nat) : memGet m i (cfg.withMaxFrames M) = memGet m i cfg := by
  induction m with
  | nil => rfl
  | cons c t ih => simp only [memGet, ih]

theorem memRead_withMaxFrames (cap : Nat) (m : Memory N) (i : Int) :
    memRead cap m i (cfg.withMaxFrames M) = memRead cap m i cfg := memGet_withMaxFrames ..

theorem fread_withMaxFrames (buf : Memory N) (p : N) : fread (cfg.withMaxFrames M) buf p = fread cfg buf p := by
  simp only [fread, memRead_withMaxFrames]; rfl

theorem memPut_withMaxFrames [DecidableEq N] (m : Memory N) (i : Nat) (v : N) : memPut m i v (cfg.withMaxFrames M) = memPut m i v cfg := by
  induction m with
  | nil => rfl
  | cons c t ih => simp only [memPut, ih]; rfl

theorem memWrite_withMaxFrames [DecidableEq N] (cap : Nat) (m : Memory N) (i : Int) (v : N) :
    memWrite cap m i v (cfg.withMaxFrames M) = memWrite cap m i v cfg := memPut_withMaxFrames ..

/-! ## Units -/

theorem pluckedString_body_withMaxFrames [DecidableEq N] : PluckedString.body (cfg.withMaxFrames M) = PluckedString.body cfg := by
  funext e d
  simp only [PluckedString.body, PluckedString.outA, PluckedString.outB, PluckedString.allpass, PluckedString.tap,
    memRead_withMaxFrames, memWrite_withMaxFrames]
  rfl

theorem finish_withMaxFrames {E : Type} (k : Nat) (r : EngineRegs N) (b : BodyStep E N) :
    finish (cfg.withMaxFrames M) k r b = finish cfg k r b := by
  simp only [finish, rngSkip_withMaxFrames]; rfl

theorem draws_withMaxFrames (r : EngineRegs N) : r.draws (cfg.withMaxFrames M) = r.draws cfg := by
  funext i; simp only [EngineRegs.draws, rngSkip_withMaxFrames]; rfl

theorem sine_produce_withMaxFrames (e : SineOsc N) :
    e.produce (cfg.withMaxFrames M) = e.produce cfg := by
  simp only [SineOsc.produce, draws_withMaxFrames, finish_withMaxFrames]; rfl

theorem triangle_produce_withMaxFrames (e : TriangleOsc N) :
    e.produce (cfg.withMaxFrames M) = e.produce cfg := by
  simp only [TriangleOsc.produce, draws_withMaxFrames, finish_withMaxFrames]; rfl

theorem square_produce_withMaxFrames (e : SquareOsc N) :
    e.produce (cfg.withMaxFrames M) = e.produce cfg := by
  simp only [SquareOsc.produce, draws_withMaxFrames, finish_withMaxFrames]; rfl

theorem saw_produce_withMaxFrames (e : SawOsc N) :
    e.produce (cfg.withMaxFrames M) = e.produce cfg := by
  simp only [SawOsc.produce, draws_withMaxFrames, finish_withMaxFrames]; rfl

theorem supersaw_produce_withMaxFrames (e : SupersawBank N) :
    e.produce (cfg.withMaxFrames M) = e.produce cfg := by
  simp only [SupersawBank.produce, draws_withMaxFrames, finish_withMaxFrames]; rfl

theorem virtualAnalog_produce_withMaxFrames (e : VirtualAnalog N) :
    e.produce (cfg.withMaxFrames M) = e.produce cfg := by
  simp only [VirtualAnalog.produce, draws_withMaxFrames, finish_withMaxFrames]; rfl

theorem fm_produce_withMaxFrames (e : FmPair N) :
    e.produce (cfg.withMaxFrames M) = e.produce cfg := by
  simp only [FmPair.produce, draws_withMaxFrames, finish_withMaxFrames]; rfl

theorem formant_produce_withMaxFrames (e : FormantFilter N) :
    e.produce (cfg.withMaxFrames M) = e.produce cfg := by
  simp only [FormantFilter.produce, draws_withMaxFrames, finish_withMaxFrames]; rfl

theorem additive_produce_withMaxFrames (e : AdditiveBank N) :
    e.produce (cfg.withMaxFrames M) = e.produce cfg := by
  simp only [AdditiveBank.produce, draws_withMaxFrames, finish_withMaxFrames]; rfl

theorem chord_produce_withMaxFrames (e : ChordStack N) :
    e.produce (cfg.withMaxFrames M) = e.produce cfg := by
  simp only [ChordStack.produce, draws_withMaxFrames, finish_withMaxFrames]; rfl

theorem pluckedString_produce_withMaxFrames [DecidableEq N] (e : PluckedString N) :
    e.produce (cfg.withMaxFrames M) = e.produce cfg := by
  simp only [PluckedString.produce, pluckedString_body_withMaxFrames, draws_withMaxFrames, finish_withMaxFrames]; rfl

theorem pwm_produce_withMaxFrames (e : PwmOsc N) :
    e.produce (cfg.withMaxFrames M) = e.produce cfg := by
  simp only [PwmOsc.produce, draws_withMaxFrames, finish_withMaxFrames]; rfl

theorem ladder_output_withMaxFrames (u : Ladder N) (c : Chan) (x : N) :
    u.output (cfg.withMaxFrames M) c x = u.output cfg c x := by
  simp only [Ladder.output, ladderOut_withMaxFrames]; rfl

theorem ladder_process_withMaxFrames (u : Ladder N) (c : Chan) (x : N) :
    u.process (cfg.withMaxFrames M) c x = u.process cfg c x := by
  simp only [Ladder.process, ladderStates_withMaxFrames]; rfl

theorem delay_output_withMaxFrames (u : Delay N) (c : Chan) (x : N) :
    u.output (cfg.withMaxFrames M) c x = u.output cfg c x := by
  simp only [Delay.output, Delay.lpNext, memRead_withMaxFrames]; rfl

theorem delay_process_withMaxFrames [DecidableEq N] (u : Delay N) (c : Chan) (x : N) :
    u.process (cfg.withMaxFrames M) c x = u.process cfg c x := by
  simp only [Delay.process, Delay.lpNext, memRead_withMaxFrames, memWrite_withMaxFrames]; rfl

theorem chorus_output_withMaxFrames (u : Chorus N) (c : Chan) (x : N) :
    u.output (cfg.withMaxFrames M) c x = u.output cfg c x := by
  simp only [Chorus.output, ChorusChannel.voices, fread_withMaxFrames]; rfl

theorem chorus_process_withMaxFrames [DecidableEq N] (u : Chorus N) (c : Chan) (x : N) :
    u.process (cfg.withMaxFrames M) c x = u.process cfg c x := by
  simp only [Chorus.process, memWrite_withMaxFrames]; rfl

theorem line_out_withMaxFrames (l : Line N) (len : Nat) : l.out (cfg.withMaxFrames M) len = l.out cfg len :=
  memRead_withMaxFrames ..

theorem line_push_withMaxFrames [DecidableEq N] (l : Line N) (len : Nat) (v : N) :
    l.push (cfg.withMaxFrames M) len v = l.push cfg len v := by
  simp only [Line.push, memWrite_withMaxFrames]

theorem reverb_output_withMaxFrames (u : Reverb N) (c : Chan) (x : N) :
    u.output (cfg.withMaxFrames M) c x = u.output cfg c x := by
  simp only [Reverb.output, ReverbChannel.second, ReverbChannel.first, ReverbChannel.combs, Line.apOut, Line.apIn,
    line_out_withMaxFrames]
  rfl

theorem reverb_process_withMaxFrames [DecidableEq N] (u : Reverb N) (c : Chan) (x : N) :
    u.process (cfg.withMaxFrames M) c x = u.process cfg c x := by
  simp only [Reverb.process, ReverbChannel.first, ReverbChannel.combs, Line.comb, Line.allpass, Line.apOut, Line.apIn,
    line_out_withMaxFrames, line_push_withMaxFrames]
  rfl

/-! ## The sample tick and the operations -/

theorem engineOut_withMaxFrames [DecidableEq N] (s : State.Of N) (k : Engine) :
    s.engineOut (cfg.withMaxFrames M) k = s.engineOut cfg k := by
  cases k <;> simp only [State.Of.engineOut, sine_produce_withMaxFrames, triangle_produce_withMaxFrames,
    square_produce_withMaxFrames, saw_produce_withMaxFrames, supersaw_produce_withMaxFrames,
    virtualAnalog_produce_withMaxFrames, fm_produce_withMaxFrames, formant_produce_withMaxFrames,
    additive_produce_withMaxFrames, chord_produce_withMaxFrames, pluckedString_produce_withMaxFrames,
    pwm_produce_withMaxFrames]

theorem engineAdvance_withMaxFrames [DecidableEq N] (s : State.Of N) (k : Engine) :
    s.engineAdvance (cfg.withMaxFrames M) k = s.engineAdvance cfg k := by
  cases k <;> simp only [State.Of.engineAdvance, sine_produce_withMaxFrames, triangle_produce_withMaxFrames,
    square_produce_withMaxFrames, saw_produce_withMaxFrames, supersaw_produce_withMaxFrames,
    virtualAnalog_produce_withMaxFrames, fm_produce_withMaxFrames, formant_produce_withMaxFrames,
    additive_produce_withMaxFrames, chord_produce_withMaxFrames, pluckedString_produce_withMaxFrames,
    pwm_produce_withMaxFrames]

theorem resetEngine_withMaxFrames (s : State.Of N) (k : Engine) :
    s.resetEngine (cfg.withMaxFrames M) k = s.resetEngine cfg k := by cases k <;> rfl

theorem programEngine_withMaxFrames (s : State.Of N) (f h t m : N) (k : Engine) :
    s.programEngine (cfg.withMaxFrames M) f h t m k = s.programEngine cfg f h t m k := by cases k <;> rfl

theorem tickSelect_withMaxFrames [DecidableEq N] (s : State.Of N) : s.tickSelect (cfg.withMaxFrames M) = s.tickSelect cfg := by
  simp only [State.Of.tickSelect, resetEngine_withMaxFrames, programEngine_withMaxFrames]; rfl

theorem tick_withMaxFrames [DecidableEq N] (s : State.Of N) : s.tick (cfg.withMaxFrames M) = s.tick cfg := by
  have hm : s.tickModulators (cfg.withMaxFrames M) = s.tickModulators cfg := rfl
  simp only [State.Of.tick, State.Of.tickSource, State.Of.tickScaled, State.Of.tickEffects, State.Of.afterReverb,
    State.Of.afterChorus, State.Of.afterDelay, State.Of.afterFilter, bothOut, bothNext, hm, tickSelect_withMaxFrames,
    engineOut_withMaxFrames, engineAdvance_withMaxFrames, ladder_output_withMaxFrames, ladder_process_withMaxFrames,
    delay_output_withMaxFrames, delay_process_withMaxFrames, chorus_output_withMaxFrames, chorus_process_withMaxFrames,
    reverb_output_withMaxFrames, reverb_process_withMaxFrames]
  rfl

theorem runFrames_withMaxFrames [DecidableEq N] (n : Nat) (s : State.Of N) :
    State.Of.runFrames (cfg.withMaxFrames M) n s = State.Of.runFrames cfg n s := by
  induction n generalizing s with
  | zero => rfl
  | succ n ih => simp only [State.Of.runFrames, tick_withMaxFrames, ih]

/-- Every operation has the same meaning for every `MAX_FRAMES`. -/
theorem execIn_withMaxFrames [DecidableEq N] (i : Instr) (s : State.Of N) : execIn (cfg.withMaxFrames M) i s = execIn cfg i s := by
  cases i <;> first
    | rfl
    | (simp only [execIn, execE0Produce, execE1Produce, execE2Produce, execE3Produce, execE4Produce, execE5Produce,
        execE6Produce, execE7Produce, execE8Produce, execE9Produce, execE10Produce, execE11Produce,
        sine_produce_withMaxFrames, triangle_produce_withMaxFrames, square_produce_withMaxFrames,
        saw_produce_withMaxFrames, supersaw_produce_withMaxFrames, virtualAnalog_produce_withMaxFrames,
        fm_produce_withMaxFrames, formant_produce_withMaxFrames, additive_produce_withMaxFrames,
        chord_produce_withMaxFrames, pluckedString_produce_withMaxFrames, pwm_produce_withMaxFrames, execFltProcess,
        execDlyProcess, execChoProcess, execRevProcess, execPipeProcessBlock, ladder_output_withMaxFrames,
        ladder_process_withMaxFrames, delay_output_withMaxFrames, delay_process_withMaxFrames,
        chorus_output_withMaxFrames, chorus_process_withMaxFrames, reverb_output_withMaxFrames,
        reverb_process_withMaxFrames, runFrames_withMaxFrames]
       rfl)

/-- `exec` is the operation map of the reference configuration for every `MAX_FRAMES` (log 12). -/
theorem execIn_referenceAt (s : State) (i : Instr) : execIn (Config.referenceAt M) i s = exec i s :=
  (execIn_withMaxFrames ..).trans (execIn_reference i s)

/-- `step` is the step of the reference configuration for every `MAX_FRAMES` (log 12). -/
theorem stepIn_referenceAt (s : State) : stepIn (Config.referenceAt M) s = step s := by
  unfold stepIn step; rw [show execIn (Config.referenceAt M) = exec from funext₂ fun i s => execIn_referenceAt M s i]

/-! ## The premise -/

theorem memWfFrom_withMaxFrames [DecidableEq N] (cap lo : Nat) (m : Memory N) :
    memWfFrom cap lo m (cfg.withMaxFrames M) = memWfFrom cap lo m cfg := by
  induction m generalizing lo with
  | nil => rfl
  | cons c t ih => simp only [memWfFrom, ih]; rfl

theorem pluckedString_wellShaped_withMaxFrames [DecidableEq N] :
    PluckedString.wellShaped (cfg.withMaxFrames M) = PluckedString.wellShaped cfg := by
  funext e
  simp only [PluckedString.wellShaped, Memory.wf, memWfFrom_withMaxFrames]
  rfl

/-- The premise on a configuration holds for every `MAX_FRAMES` if it holds for one. -/
theorem admissible_withMaxFrames [DecidableEq N] {cfg : Config.Parameters N} (h : cfg.Admissible) (M : BitVec 32) :
    (cfg.withMaxFrames M).Admissible where
  order := h.order
  arithmetic := h.arithmetic
  ports := h.ports
  functions := { h.functions with }
  globals := { h.globals with }
  oscillators := { h.oscillators with }
  stringPwm := { h.stringPwm with }
  effects := { h.effects with }
  bodies := { h.bodies with
    pluckedString := by
      rw [pluckedString_wellShaped_withMaxFrames]
      exact h.bodies.pluckedString }

end Sys2Proof.Machine
end

