-- ==== Sys2Proof/Laws/PerInstr.lean ====
section
/-! SUPPORT. The fields of a command word, and for every constructor of `Instr`: the operation map (R113) has a row for the
word the encoder writes, and that row builds the operation back when it is well formed. -/

namespace Sys2Proof.Laws

/-! ## Fields of a command word (R111) -/

theorem commandWord_toNat (u o : BitVec 8) (i : Idx) (d : Data) :
    (commandWord u o i d).toNat = ((u.toNat * 2 ^ 8 + o.toNat) * 2 ^ 16 + i.toNat) * 2 ^ 32 + d.toNat := by
  unfold commandWord
  simp only [BitVec.toNat_append]
  rw [← Nat.shiftLeft_add_eq_or_of_lt d.isLt, ← Nat.shiftLeft_add_eq_or_of_lt i.isLt,
    ← Nat.shiftLeft_add_eq_or_of_lt o.isLt]
  simp only [Nat.shiftLeft_eq]

@[simp] theorem unitField_commandWord (u o : BitVec 8) (i : Idx) (d : Data) : unitField (commandWord u o i d) = u := by
  apply BitVec.eq_of_toNat_eq
  unfold unitField
  rw [BitVec.extractLsb'_toNat, commandWord_toNat, Nat.shiftRight_eq_div_pow]
  have := u.isLt; have := o.isLt; have := i.isLt; have := d.isLt
  omega

@[simp] theorem opField_commandWord (u o : BitVec 8) (i : Idx) (d : Data) : opField (commandWord u o i d) = o := by
  apply BitVec.eq_of_toNat_eq
  unfold opField
  rw [BitVec.extractLsb'_toNat, commandWord_toNat, Nat.shiftRight_eq_div_pow]
  have := u.isLt; have := o.isLt; have := i.isLt; have := d.isLt
  omega

@[simp] theorem idxField_commandWord (u o : BitVec 8) (i : Idx) (d : Data) : idxField (commandWord u o i d) = i := by
  apply BitVec.eq_of_toNat_eq
  unfold idxField
  rw [BitVec.extractLsb'_toNat, commandWord_toNat, Nat.shiftRight_eq_div_pow]
  have := u.isLt; have := o.isLt; have := i.isLt; have := d.isLt
  omega

@[simp] theorem dataField_commandWord (u o : BitVec 8) (i : Idx) (d : Data) : dataField (commandWord u o i d) = d := by
  apply BitVec.eq_of_toNat_eq
  unfold dataField
  rw [BitVec.extractLsb'_toNat, commandWord_toNat, Nat.shiftRight_eq_div_pow]
  have := u.isLt; have := o.isLt; have := i.isLt; have := d.isLt
  omega

/-! ## Operand fields that clear ignored bits (R114, R115) -/

theorem toNat_and_mask {w : Nat} (x : BitVec w) (n : Nat) (h : x.toNat < 2 ^ n) :
    x &&& BitVec.ofNat w (2 ^ n - 1) = x := by
  apply BitVec.eq_of_toNat_eq
  rw [BitVec.toNat_and, BitVec.toNat_ofNat]
  rcases Nat.lt_or_ge n w with hn | hn
  · have : 2 ^ n ≤ 2 ^ w := Nat.pow_le_pow_right (by decide) hn.le
    have h0 : 0 < 2 ^ n := by positivity
    rw [Nat.mod_eq_of_lt (by omega), Nat.and_two_pow_sub_one_eq_mod, Nat.mod_eq_of_lt h]
  · have hw : 2 ^ w ∣ 2 ^ n := Nat.pow_dvd_pow 2 hn
    have e : (2 ^ n - 1) % 2 ^ w = 2 ^ w - 1 := by
      obtain ⟨k, hk⟩ := hw
      have hp : 0 < 2 ^ w := by positivity
      have hk0 : 0 < k := by
        rcases Nat.eq_zero_or_pos k with h0 | h0
        · rw [h0, Nat.mul_zero] at hk; have : 0 < 2 ^ n := by positivity
          omega
        · exact h0
      rw [hk]
      obtain ⟨j, rfl⟩ : ∃ j, k = j + 1 := ⟨k - 1, by omega⟩
      rw [Nat.mul_succ, Nat.add_sub_assoc hp, Nat.mul_add_mod, Nat.mod_eq_of_lt (by omega)]
    rw [e, Nat.and_two_pow_sub_one_eq_mod, Nat.mod_eq_of_lt x.isLt]

theorem channelField_of_ok {c : Idx} (h : channelOk c = true) : channelField c = c :=
  toNat_and_mask c 1 (by have := Nat.le_of_ble_eq_true h; omega)

theorem noteField_of_ok {note : Idx} (h : noteOk note = true) : noteField note = note :=
  toNat_and_mask note 7 (by have := Nat.le_of_ble_eq_true h; omega)

theorem velocityField_of_ok {vel : Data} (h : velocityOk vel = true) : velocityField vel = vel :=
  toNat_and_mask vel 7 (by have := Nat.le_of_ble_eq_true h; omega)

/-! ## One lemma per constructor -/

/-- The operation map has the row of the operation's word, and the row builds the operation back when it is well
formed. -/
def RowFound.Statement (i : Instr) : Prop :=
  ∃ r : OpRow, findRow (unitField (encode i)) (opField (encode i)) = some r ∧
    (i.wellFormed = true → r.build (idxField (encode i)) (dataField (encode i)) = i)

theorem rowFound_of {i : Instr} {u o : BitVec 8} {idx : Idx} {d : Data} (build : Idx → Data → Instr)
    (he : encode i = commandWord u o idx d) (hf : findRow u o = some ⟨u, o, build⟩)
    (hb : i.wellFormed = true → build idx d = i) : RowFound.Statement i :=
  ⟨_, by rw [he, unitField_commandWord, opField_commandWord]; exact hf,
   by rw [he, idxField_commandWord, dataField_commandWord]; exact hb⟩

theorem RowFound.e0Reset : RowFound.Statement (.e0Reset) :=
  rowFound_of (fun _ _ => Instr.e0Reset) rfl rfl (fun _ => rfl)
theorem RowFound.e0SetSr (v : Data) : RowFound.Statement (.e0SetSr v) :=
  rowFound_of (fun _ data => Instr.e0SetSr data) rfl rfl (fun _ => rfl)
theorem RowFound.e0SetFreq (v : Data) : RowFound.Statement (.e0SetFreq v) :=
  rowFound_of (fun _ data => Instr.e0SetFreq data) rfl rfl (fun _ => rfl)
theorem RowFound.e0SetHarm (v : Data) : RowFound.Statement (.e0SetHarm v) :=
  rowFound_of (fun _ data => Instr.e0SetHarm data) rfl rfl (fun _ => rfl)
theorem RowFound.e0SetTimb (v : Data) : RowFound.Statement (.e0SetTimb v) :=
  rowFound_of (fun _ data => Instr.e0SetTimb data) rfl rfl (fun _ => rfl)
theorem RowFound.e0SetMorph (v : Data) : RowFound.Statement (.e0SetMorph v) :=
  rowFound_of (fun _ data => Instr.e0SetMorph data) rfl rfl (fun _ => rfl)
theorem RowFound.e0SetLevel (v : Data) : RowFound.Statement (.e0SetLevel v) :=
  rowFound_of (fun _ data => Instr.e0SetLevel data) rfl rfl (fun _ => rfl)
theorem RowFound.e0Produce : RowFound.Statement (.e0Produce) :=
  rowFound_of (fun _ _ => Instr.e0Produce) rfl rfl (fun _ => rfl)
theorem RowFound.e1Reset : RowFound.Statement (.e1Reset) :=
  rowFound_of (fun _ _ => Instr.e1Reset) rfl rfl (fun _ => rfl)
theorem RowFound.e1SetSr (v : Data) : RowFound.Statement (.e1SetSr v) :=
  rowFound_of (fun _ data => Instr.e1SetSr data) rfl rfl (fun _ => rfl)
theorem RowFound.e1SetFreq (v : Data) : RowFound.Statement (.e1SetFreq v) :=
  rowFound_of (fun _ data => Instr.e1SetFreq data) rfl rfl (fun _ => rfl)
theorem RowFound.e1SetHarm (v : Data) : RowFound.Statement (.e1SetHarm v) :=
  rowFound_of (fun _ data => Instr.e1SetHarm data) rfl rfl (fun _ => rfl)
theorem RowFound.e1SetTimb (v : Data) : RowFound.Statement (.e1SetTimb v) :=
  rowFound_of (fun _ data => Instr.e1SetTimb data) rfl rfl (fun _ => rfl)
theorem RowFound.e1SetMorph (v : Data) : RowFound.Statement (.e1SetMorph v) :=
  rowFound_of (fun _ data => Instr.e1SetMorph data) rfl rfl (fun _ => rfl)
theorem RowFound.e1SetLevel (v : Data) : RowFound.Statement (.e1SetLevel v) :=
  rowFound_of (fun _ data => Instr.e1SetLevel data) rfl rfl (fun _ => rfl)
theorem RowFound.e1Produce : RowFound.Statement (.e1Produce) :=
  rowFound_of (fun _ _ => Instr.e1Produce) rfl rfl (fun _ => rfl)
theorem RowFound.e2Reset : RowFound.Statement (.e2Reset) :=
  rowFound_of (fun _ _ => Instr.e2Reset) rfl rfl (fun _ => rfl)
theorem RowFound.e2SetSr (v : Data) : RowFound.Statement (.e2SetSr v) :=
  rowFound_of (fun _ data => Instr.e2SetSr data) rfl rfl (fun _ => rfl)
theorem RowFound.e2SetFreq (v : Data) : RowFound.Statement (.e2SetFreq v) :=
  rowFound_of (fun _ data => Instr.e2SetFreq data) rfl rfl (fun _ => rfl)
theorem RowFound.e2SetHarm (v : Data) : RowFound.Statement (.e2SetHarm v) :=
  rowFound_of (fun _ data => Instr.e2SetHarm data) rfl rfl (fun _ => rfl)
theorem RowFound.e2SetTimb (v : Data) : RowFound.Statement (.e2SetTimb v) :=
  rowFound_of (fun _ data => Instr.e2SetTimb data) rfl rfl (fun _ => rfl)
theorem RowFound.e2SetMorph (v : Data) : RowFound.Statement (.e2SetMorph v) :=
  rowFound_of (fun _ data => Instr.e2SetMorph data) rfl rfl (fun _ => rfl)
theorem RowFound.e2SetLevel (v : Data) : RowFound.Statement (.e2SetLevel v) :=
  rowFound_of (fun _ data => Instr.e2SetLevel data) rfl rfl (fun _ => rfl)
theorem RowFound.e2Produce : RowFound.Statement (.e2Produce) :=
  rowFound_of (fun _ _ => Instr.e2Produce) rfl rfl (fun _ => rfl)
theorem RowFound.e3Reset : RowFound.Statement (.e3Reset) :=
  rowFound_of (fun _ _ => Instr.e3Reset) rfl rfl (fun _ => rfl)
theorem RowFound.e3SetSr (v : Data) : RowFound.Statement (.e3SetSr v) :=
  rowFound_of (fun _ data => Instr.e3SetSr data) rfl rfl (fun _ => rfl)
theorem RowFound.e3SetFreq (v : Data) : RowFound.Statement (.e3SetFreq v) :=
  rowFound_of (fun _ data => Instr.e3SetFreq data) rfl rfl (fun _ => rfl)
theorem RowFound.e3SetHarm (v : Data) : RowFound.Statement (.e3SetHarm v) :=
  rowFound_of (fun _ data => Instr.e3SetHarm data) rfl rfl (fun _ => rfl)
theorem RowFound.e3SetTimb (v : Data) : RowFound.Statement (.e3SetTimb v) :=
  rowFound_of (fun _ data => Instr.e3SetTimb data) rfl rfl (fun _ => rfl)
theorem RowFound.e3SetMorph (v : Data) : RowFound.Statement (.e3SetMorph v) :=
  rowFound_of (fun _ data => Instr.e3SetMorph data) rfl rfl (fun _ => rfl)
theorem RowFound.e3SetLevel (v : Data) : RowFound.Statement (.e3SetLevel v) :=
  rowFound_of (fun _ data => Instr.e3SetLevel data) rfl rfl (fun _ => rfl)
theorem RowFound.e3Produce : RowFound.Statement (.e3Produce) :=
  rowFound_of (fun _ _ => Instr.e3Produce) rfl rfl (fun _ => rfl)
theorem RowFound.e4Reset : RowFound.Statement (.e4Reset) :=
  rowFound_of (fun _ _ => Instr.e4Reset) rfl rfl (fun _ => rfl)
theorem RowFound.e4SetSr (v : Data) : RowFound.Statement (.e4SetSr v) :=
  rowFound_of (fun _ data => Instr.e4SetSr data) rfl rfl (fun _ => rfl)
theorem RowFound.e4SetFreq (v : Data) : RowFound.Statement (.e4SetFreq v) :=
  rowFound_of (fun _ data => Instr.e4SetFreq data) rfl rfl (fun _ => rfl)
theorem RowFound.e4SetHarm (v : Data) : RowFound.Statement (.e4SetHarm v) :=
  rowFound_of (fun _ data => Instr.e4SetHarm data) rfl rfl (fun _ => rfl)
theorem RowFound.e4SetTimb (v : Data) : RowFound.Statement (.e4SetTimb v) :=
  rowFound_of (fun _ data => Instr.e4SetTimb data) rfl rfl (fun _ => rfl)
theorem RowFound.e4SetMorph (v : Data) : RowFound.Statement (.e4SetMorph v) :=
  rowFound_of (fun _ data => Instr.e4SetMorph data) rfl rfl (fun _ => rfl)
theorem RowFound.e4SetLevel (v : Data) : RowFound.Statement (.e4SetLevel v) :=
  rowFound_of (fun _ data => Instr.e4SetLevel data) rfl rfl (fun _ => rfl)
theorem RowFound.e4Produce : RowFound.Statement (.e4Produce) :=
  rowFound_of (fun _ _ => Instr.e4Produce) rfl rfl (fun _ => rfl)
theorem RowFound.e5Reset : RowFound.Statement (.e5Reset) :=
  rowFound_of (fun _ _ => Instr.e5Reset) rfl rfl (fun _ => rfl)
theorem RowFound.e5SetSr (v : Data) : RowFound.Statement (.e5SetSr v) :=
  rowFound_of (fun _ data => Instr.e5SetSr data) rfl rfl (fun _ => rfl)
theorem RowFound.e5SetFreq (v : Data) : RowFound.Statement (.e5SetFreq v) :=
  rowFound_of (fun _ data => Instr.e5SetFreq data) rfl rfl (fun _ => rfl)
theorem RowFound.e5SetHarm (v : Data) : RowFound.Statement (.e5SetHarm v) :=
  rowFound_of (fun _ data => Instr.e5SetHarm data) rfl rfl (fun _ => rfl)
theorem RowFound.e5SetTimb (v : Data) : RowFound.Statement (.e5SetTimb v) :=
  rowFound_of (fun _ data => Instr.e5SetTimb data) rfl rfl (fun _ => rfl)
theorem RowFound.e5SetMorph (v : Data) : RowFound.Statement (.e5SetMorph v) :=
  rowFound_of (fun _ data => Instr.e5SetMorph data) rfl rfl (fun _ => rfl)
theorem RowFound.e5SetLevel (v : Data) : RowFound.Statement (.e5SetLevel v) :=
  rowFound_of (fun _ data => Instr.e5SetLevel data) rfl rfl (fun _ => rfl)
theorem RowFound.e5Produce : RowFound.Statement (.e5Produce) :=
  rowFound_of (fun _ _ => Instr.e5Produce) rfl rfl (fun _ => rfl)
theorem RowFound.e6Reset : RowFound.Statement (.e6Reset) :=
  rowFound_of (fun _ _ => Instr.e6Reset) rfl rfl (fun _ => rfl)
theorem RowFound.e6SetSr (v : Data) : RowFound.Statement (.e6SetSr v) :=
  rowFound_of (fun _ data => Instr.e6SetSr data) rfl rfl (fun _ => rfl)
theorem RowFound.e6SetFreq (v : Data) : RowFound.Statement (.e6SetFreq v) :=
  rowFound_of (fun _ data => Instr.e6SetFreq data) rfl rfl (fun _ => rfl)
theorem RowFound.e6SetHarm (v : Data) : RowFound.Statement (.e6SetHarm v) :=
  rowFound_of (fun _ data => Instr.e6SetHarm data) rfl rfl (fun _ => rfl)
theorem RowFound.e6SetTimb (v : Data) : RowFound.Statement (.e6SetTimb v) :=
  rowFound_of (fun _ data => Instr.e6SetTimb data) rfl rfl (fun _ => rfl)
theorem RowFound.e6SetMorph (v : Data) : RowFound.Statement (.e6SetMorph v) :=
  rowFound_of (fun _ data => Instr.e6SetMorph data) rfl rfl (fun _ => rfl)
theorem RowFound.e6SetLevel (v : Data) : RowFound.Statement (.e6SetLevel v) :=
  rowFound_of (fun _ data => Instr.e6SetLevel data) rfl rfl (fun _ => rfl)
theorem RowFound.e6Produce : RowFound.Statement (.e6Produce) :=
  rowFound_of (fun _ _ => Instr.e6Produce) rfl rfl (fun _ => rfl)
theorem RowFound.e7Reset : RowFound.Statement (.e7Reset) :=
  rowFound_of (fun _ _ => Instr.e7Reset) rfl rfl (fun _ => rfl)
theorem RowFound.e7SetSr (v : Data) : RowFound.Statement (.e7SetSr v) :=
  rowFound_of (fun _ data => Instr.e7SetSr data) rfl rfl (fun _ => rfl)
theorem RowFound.e7SetFreq (v : Data) : RowFound.Statement (.e7SetFreq v) :=
  rowFound_of (fun _ data => Instr.e7SetFreq data) rfl rfl (fun _ => rfl)
theorem RowFound.e7SetHarm (v : Data) : RowFound.Statement (.e7SetHarm v) :=
  rowFound_of (fun _ data => Instr.e7SetHarm data) rfl rfl (fun _ => rfl)
theorem RowFound.e7SetTimb (v : Data) : RowFound.Statement (.e7SetTimb v) :=
  rowFound_of (fun _ data => Instr.e7SetTimb data) rfl rfl (fun _ => rfl)
theorem RowFound.e7SetMorph (v : Data) : RowFound.Statement (.e7SetMorph v) :=
  rowFound_of (fun _ data => Instr.e7SetMorph data) rfl rfl (fun _ => rfl)
theorem RowFound.e7SetLevel (v : Data) : RowFound.Statement (.e7SetLevel v) :=
  rowFound_of (fun _ data => Instr.e7SetLevel data) rfl rfl (fun _ => rfl)
theorem RowFound.e7Produce : RowFound.Statement (.e7Produce) :=
  rowFound_of (fun _ _ => Instr.e7Produce) rfl rfl (fun _ => rfl)
theorem RowFound.e8Reset : RowFound.Statement (.e8Reset) :=
  rowFound_of (fun _ _ => Instr.e8Reset) rfl rfl (fun _ => rfl)
theorem RowFound.e8SetSr (v : Data) : RowFound.Statement (.e8SetSr v) :=
  rowFound_of (fun _ data => Instr.e8SetSr data) rfl rfl (fun _ => rfl)
theorem RowFound.e8SetFreq (v : Data) : RowFound.Statement (.e8SetFreq v) :=
  rowFound_of (fun _ data => Instr.e8SetFreq data) rfl rfl (fun _ => rfl)
theorem RowFound.e8SetHarm (v : Data) : RowFound.Statement (.e8SetHarm v) :=
  rowFound_of (fun _ data => Instr.e8SetHarm data) rfl rfl (fun _ => rfl)
theorem RowFound.e8SetTimb (v : Data) : RowFound.Statement (.e8SetTimb v) :=
  rowFound_of (fun _ data => Instr.e8SetTimb data) rfl rfl (fun _ => rfl)
theorem RowFound.e8SetMorph (v : Data) : RowFound.Statement (.e8SetMorph v) :=
  rowFound_of (fun _ data => Instr.e8SetMorph data) rfl rfl (fun _ => rfl)
theorem RowFound.e8SetLevel (v : Data) : RowFound.Statement (.e8SetLevel v) :=
  rowFound_of (fun _ data => Instr.e8SetLevel data) rfl rfl (fun _ => rfl)
theorem RowFound.e8Produce : RowFound.Statement (.e8Produce) :=
  rowFound_of (fun _ _ => Instr.e8Produce) rfl rfl (fun _ => rfl)
theorem RowFound.e9Reset : RowFound.Statement (.e9Reset) :=
  rowFound_of (fun _ _ => Instr.e9Reset) rfl rfl (fun _ => rfl)
theorem RowFound.e9SetSr (v : Data) : RowFound.Statement (.e9SetSr v) :=
  rowFound_of (fun _ data => Instr.e9SetSr data) rfl rfl (fun _ => rfl)
theorem RowFound.e9SetFreq (v : Data) : RowFound.Statement (.e9SetFreq v) :=
  rowFound_of (fun _ data => Instr.e9SetFreq data) rfl rfl (fun _ => rfl)
theorem RowFound.e9SetHarm (v : Data) : RowFound.Statement (.e9SetHarm v) :=
  rowFound_of (fun _ data => Instr.e9SetHarm data) rfl rfl (fun _ => rfl)
theorem RowFound.e9SetTimb (v : Data) : RowFound.Statement (.e9SetTimb v) :=
  rowFound_of (fun _ data => Instr.e9SetTimb data) rfl rfl (fun _ => rfl)
theorem RowFound.e9SetMorph (v : Data) : RowFound.Statement (.e9SetMorph v) :=
  rowFound_of (fun _ data => Instr.e9SetMorph data) rfl rfl (fun _ => rfl)
theorem RowFound.e9SetLevel (v : Data) : RowFound.Statement (.e9SetLevel v) :=
  rowFound_of (fun _ data => Instr.e9SetLevel data) rfl rfl (fun _ => rfl)
theorem RowFound.e9Produce : RowFound.Statement (.e9Produce) :=
  rowFound_of (fun _ _ => Instr.e9Produce) rfl rfl (fun _ => rfl)
theorem RowFound.e10Reset : RowFound.Statement (.e10Reset) :=
  rowFound_of (fun _ _ => Instr.e10Reset) rfl rfl (fun _ => rfl)
theorem RowFound.e10SetSr (v : Data) : RowFound.Statement (.e10SetSr v) :=
  rowFound_of (fun _ data => Instr.e10SetSr data) rfl rfl (fun _ => rfl)
theorem RowFound.e10SetFreq (v : Data) : RowFound.Statement (.e10SetFreq v) :=
  rowFound_of (fun _ data => Instr.e10SetFreq data) rfl rfl (fun _ => rfl)
theorem RowFound.e10SetHarm (v : Data) : RowFound.Statement (.e10SetHarm v) :=
  rowFound_of (fun _ data => Instr.e10SetHarm data) rfl rfl (fun _ => rfl)
theorem RowFound.e10SetTimb (v : Data) : RowFound.Statement (.e10SetTimb v) :=
  rowFound_of (fun _ data => Instr.e10SetTimb data) rfl rfl (fun _ => rfl)
theorem RowFound.e10SetMorph (v : Data) : RowFound.Statement (.e10SetMorph v) :=
  rowFound_of (fun _ data => Instr.e10SetMorph data) rfl rfl (fun _ => rfl)
theorem RowFound.e10SetLevel (v : Data) : RowFound.Statement (.e10SetLevel v) :=
  rowFound_of (fun _ data => Instr.e10SetLevel data) rfl rfl (fun _ => rfl)
theorem RowFound.e10Produce : RowFound.Statement (.e10Produce) :=
  rowFound_of (fun _ _ => Instr.e10Produce) rfl rfl (fun _ => rfl)
theorem RowFound.e11Reset : RowFound.Statement (.e11Reset) :=
  rowFound_of (fun _ _ => Instr.e11Reset) rfl rfl (fun _ => rfl)
theorem RowFound.e11SetSr (v : Data) : RowFound.Statement (.e11SetSr v) :=
  rowFound_of (fun _ data => Instr.e11SetSr data) rfl rfl (fun _ => rfl)
theorem RowFound.e11SetFreq (v : Data) : RowFound.Statement (.e11SetFreq v) :=
  rowFound_of (fun _ data => Instr.e11SetFreq data) rfl rfl (fun _ => rfl)
theorem RowFound.e11SetHarm (v : Data) : RowFound.Statement (.e11SetHarm v) :=
  rowFound_of (fun _ data => Instr.e11SetHarm data) rfl rfl (fun _ => rfl)
theorem RowFound.e11SetTimb (v : Data) : RowFound.Statement (.e11SetTimb v) :=
  rowFound_of (fun _ data => Instr.e11SetTimb data) rfl rfl (fun _ => rfl)
theorem RowFound.e11SetMorph (v : Data) : RowFound.Statement (.e11SetMorph v) :=
  rowFound_of (fun _ data => Instr.e11SetMorph data) rfl rfl (fun _ => rfl)
theorem RowFound.e11SetLevel (v : Data) : RowFound.Statement (.e11SetLevel v) :=
  rowFound_of (fun _ data => Instr.e11SetLevel data) rfl rfl (fun _ => rfl)
theorem RowFound.e11Produce : RowFound.Statement (.e11Produce) :=
  rowFound_of (fun _ _ => Instr.e11Produce) rfl rfl (fun _ => rfl)
theorem RowFound.adsrReset : RowFound.Statement (.adsrReset) :=
  rowFound_of (fun _ _ => Instr.adsrReset) rfl rfl (fun _ => rfl)
theorem RowFound.adsrSetSr (v : Data) : RowFound.Statement (.adsrSetSr v) :=
  rowFound_of (fun _ data => Instr.adsrSetSr data) rfl rfl (fun _ => rfl)
theorem RowFound.adsrSetAttack (v : Data) : RowFound.Statement (.adsrSetAttack v) :=
  rowFound_of (fun _ data => Instr.adsrSetAttack data) rfl rfl (fun _ => rfl)
theorem RowFound.adsrSetDecay (v : Data) : RowFound.Statement (.adsrSetDecay v) :=
  rowFound_of (fun _ data => Instr.adsrSetDecay data) rfl rfl (fun _ => rfl)
theorem RowFound.adsrSetSustain (v : Data) : RowFound.Statement (.adsrSetSustain v) :=
  rowFound_of (fun _ data => Instr.adsrSetSustain data) rfl rfl (fun _ => rfl)
theorem RowFound.adsrSetRelease (v : Data) : RowFound.Statement (.adsrSetRelease v) :=
  rowFound_of (fun _ data => Instr.adsrSetRelease data) rfl rfl (fun _ => rfl)
theorem RowFound.adsrGateOn : RowFound.Statement (.adsrGateOn) :=
  rowFound_of (fun _ _ => Instr.adsrGateOn) rfl rfl (fun _ => rfl)
theorem RowFound.adsrGateOff : RowFound.Statement (.adsrGateOff) :=
  rowFound_of (fun _ _ => Instr.adsrGateOff) rfl rfl (fun _ => rfl)
theorem RowFound.adsrProcess : RowFound.Statement (.adsrProcess) :=
  rowFound_of (fun _ _ => Instr.adsrProcess) rfl rfl (fun _ => rfl)
theorem RowFound.adReset : RowFound.Statement (.adReset) :=
  rowFound_of (fun _ _ => Instr.adReset) rfl rfl (fun _ => rfl)
theorem RowFound.adSetSr (v : Data) : RowFound.Statement (.adSetSr v) :=
  rowFound_of (fun _ data => Instr.adSetSr data) rfl rfl (fun _ => rfl)
theorem RowFound.adSetAttack (v : Data) : RowFound.Statement (.adSetAttack v) :=
  rowFound_of (fun _ data => Instr.adSetAttack data) rfl rfl (fun _ => rfl)
theorem RowFound.adSetDecay (v : Data) : RowFound.Statement (.adSetDecay v) :=
  rowFound_of (fun _ data => Instr.adSetDecay data) rfl rfl (fun _ => rfl)
theorem RowFound.adGateOn : RowFound.Statement (.adGateOn) :=
  rowFound_of (fun _ _ => Instr.adGateOn) rfl rfl (fun _ => rfl)
theorem RowFound.adGateOff : RowFound.Statement (.adGateOff) :=
  rowFound_of (fun _ _ => Instr.adGateOff) rfl rfl (fun _ => rfl)
theorem RowFound.adProcess : RowFound.Statement (.adProcess) :=
  rowFound_of (fun _ _ => Instr.adProcess) rfl rfl (fun _ => rfl)
theorem RowFound.lfoReset : RowFound.Statement (.lfoReset) :=
  rowFound_of (fun _ _ => Instr.lfoReset) rfl rfl (fun _ => rfl)
theorem RowFound.lfoSetSr (v : Data) : RowFound.Statement (.lfoSetSr v) :=
  rowFound_of (fun _ data => Instr.lfoSetSr data) rfl rfl (fun _ => rfl)
theorem RowFound.lfoSetFreq (v : Data) : RowFound.Statement (.lfoSetFreq v) :=
  rowFound_of (fun _ data => Instr.lfoSetFreq data) rfl rfl (fun _ => rfl)
theorem RowFound.lfoProcess : RowFound.Statement (.lfoProcess) :=
  rowFound_of (fun _ _ => Instr.lfoProcess) rfl rfl (fun _ => rfl)
theorem RowFound.lfoSetWave (v : Data) : RowFound.Statement (.lfoSetWave v) :=
  rowFound_of (fun _ data => Instr.lfoSetWave data) rfl rfl (fun _ => rfl)
theorem RowFound.lfoSetVar (v : Data) : RowFound.Statement (.lfoSetVar v) :=
  rowFound_of (fun _ data => Instr.lfoSetVar data) rfl rfl (fun _ => rfl)
theorem RowFound.fltReset : RowFound.Statement (.fltReset) :=
  rowFound_of (fun _ _ => Instr.fltReset) rfl rfl (fun _ => rfl)
theorem RowFound.fltSetSr (v : Data) : RowFound.Statement (.fltSetSr v) :=
  rowFound_of (fun _ data => Instr.fltSetSr data) rfl rfl (fun _ => rfl)
theorem RowFound.fltProcess (c : Idx) (v : Data) : RowFound.Statement (.fltProcess c v) :=
  rowFound_of (fun idx data => Instr.fltProcess (channelField idx) data) rfl rfl (fun h => by show Instr.fltProcess (channelField c) v = _; rw [channelField_of_ok h])
theorem RowFound.fltSetCutoff (v : Data) : RowFound.Statement (.fltSetCutoff v) :=
  rowFound_of (fun _ data => Instr.fltSetCutoff data) rfl rfl (fun _ => rfl)
theorem RowFound.fltSetRes (v : Data) : RowFound.Statement (.fltSetRes v) :=
  rowFound_of (fun _ data => Instr.fltSetRes data) rfl rfl (fun _ => rfl)
theorem RowFound.fltSetWet (v : Data) : RowFound.Statement (.fltSetWet v) :=
  rowFound_of (fun _ data => Instr.fltSetWet data) rfl rfl (fun _ => rfl)
theorem RowFound.dlyReset : RowFound.Statement (.dlyReset) :=
  rowFound_of (fun _ _ => Instr.dlyReset) rfl rfl (fun _ => rfl)
theorem RowFound.dlyProcess (c : Idx) (v : Data) : RowFound.Statement (.dlyProcess c v) :=
  rowFound_of (fun idx data => Instr.dlyProcess (channelField idx) data) rfl rfl (fun h => by show Instr.dlyProcess (channelField c) v = _; rw [channelField_of_ok h])
theorem RowFound.dlySetAmount (v : Data) : RowFound.Statement (.dlySetAmount v) :=
  rowFound_of (fun _ data => Instr.dlySetAmount data) rfl rfl (fun _ => rfl)
theorem RowFound.choReset : RowFound.Statement (.choReset) :=
  rowFound_of (fun _ _ => Instr.choReset) rfl rfl (fun _ => rfl)
theorem RowFound.choProcess (c : Idx) (v : Data) : RowFound.Statement (.choProcess c v) :=
  rowFound_of (fun idx data => Instr.choProcess (channelField idx) data) rfl rfl (fun h => by show Instr.choProcess (channelField c) v = _; rw [channelField_of_ok h])
theorem RowFound.choSetAmount (v : Data) : RowFound.Statement (.choSetAmount v) :=
  rowFound_of (fun _ data => Instr.choSetAmount data) rfl rfl (fun _ => rfl)
theorem RowFound.revReset : RowFound.Statement (.revReset) :=
  rowFound_of (fun _ _ => Instr.revReset) rfl rfl (fun _ => rfl)
theorem RowFound.revProcess (c : Idx) (v : Data) : RowFound.Statement (.revProcess c v) :=
  rowFound_of (fun idx data => Instr.revProcess (channelField idx) data) rfl rfl (fun h => by show Instr.revProcess (channelField c) v = _; rw [channelField_of_ok h])
theorem RowFound.revSetAmount (v : Data) : RowFound.Statement (.revSetAmount v) :=
  rowFound_of (fun _ data => Instr.revSetAmount data) rfl rfl (fun _ => rfl)
theorem RowFound.pipeFullReset : RowFound.Statement (.pipeFullReset) :=
  rowFound_of (fun _ _ => Instr.pipeFullReset) rfl rfl (fun _ => rfl)
theorem RowFound.pipeParamSet (i : Idx) (v : Data) : RowFound.Statement (.pipeParamSet i v) :=
  rowFound_of (fun idx data => Instr.pipeParamSet idx data) rfl rfl (fun _ => rfl)
theorem RowFound.pipeParamGet (i : Idx) : RowFound.Statement (.pipeParamGet i) :=
  rowFound_of (fun idx _ => Instr.pipeParamGet idx) rfl rfl (fun _ => rfl)
theorem RowFound.pipeNoteOn (note : Idx) (vel : Data) : RowFound.Statement (.pipeNoteOn note vel) :=
  rowFound_of (fun idx data => Instr.pipeNoteOn (noteField idx) (velocityField data)) rfl rfl (fun h => by
    have h := Bool.and_eq_true_iff.1 h
    show Instr.pipeNoteOn (noteField note) (velocityField vel) = _
    rw [noteField_of_ok h.1, velocityField_of_ok h.2])
theorem RowFound.pipeNoteOff (note : Idx) : RowFound.Statement (.pipeNoteOff note) :=
  rowFound_of (fun idx _ => Instr.pipeNoteOff (noteField idx)) rfl rfl (fun h => by show Instr.pipeNoteOff (noteField note) = _; rw [noteField_of_ok h])
theorem RowFound.pipeProcessBlock (n : Data) : RowFound.Statement (.pipeProcessBlock n) :=
  rowFound_of (fun _ data => Instr.pipeProcessBlock data) rfl rfl (fun _ => rfl)

end Sys2Proof.Laws
end

