-- ==== Sys2Proof/Tests/Slice0.lean ====
section
/-! SUPPORT. Small checks of the model against the spec: words written out bit by bit, vectors of 95_test_vectors.md, and
one witness for the hypotheses of every statement that has some. The vectors of the spec are given to six places and without
the noise floor, which moves an engine's output by at most 1.0e-4: `near` states the distance allowed. -/

namespace Sys2Proof.Tests

set_option Elab.async false

open Sys2Proof.Machine

/-! ## Helpers -/

/-- The configuration the operations run at. -/
abbrev cfg : Config.Parameters NUM := Config.reference

/-- `v` is within `tol` millionths of `micro` millionths. -/
def near (v : NUM) (micro : Int) (tol : Nat) : Bool :=
  v.isFinite && Nat.ble (v.units * 1000000 - micro * ((1 <<< 149 : Nat) : Int)).natAbs (tol * (1 <<< 149))

/-- The state an outcome goes on with. -/
def after : Result → State
  | .next t => t
  | _ => State.reset

/-- The low half of the last response word. -/
def low (r : Result) : NUM := ⟨((after r).responses.getLastD 0#64).extractLsb' 0 32⟩

/-- The high half of the last response word. -/
def high (r : Result) : NUM := ⟨((after r).responses.getLastD 0#64).extractLsb' 32 32⟩

/-- Control registers with the given frequency in Hz and controls in hundredths, at 48 kHz and level 1. -/
def regs (k freq harm timb morph : Nat) : EngineRegs NUM :=
  { EngineRegs.powerOn cfg k with
    freq := NUM.ofNat freq, harm := NUM.ofRat harm 100, timb := NUM.ofRat timb 100, morph := NUM.ofRat morph 100 }

def allEngines : List Engine :=
  [.sine, .triangle, .square, .saw, .supersaw, .virtualAnalog, .fm, .formant, .additive, .chord, .pluckedString, .pwm]

/-- The words of some numbers, written as hexadecimal binary32 words in the tests: 0.5, 1.5, NaN, +Inf, -5, -1, -0.2. -/
def bitsHalf : Data := 0x3F000000#32
def bitsOneHalf : Data := 0x3FC00000#32
def bitsNaN : Data := 0x7FC00000#32
def bitsInf : Data := 0x7F800000#32
def bitsMinusFive : Data := 0xC0A00000#32
def bitsMinusOne : Data := 0xBF800000#32
def bitsMinusFifth : Data := 0xBE4CCCCD#32

/-! ## Ill-formed operations (R114, R115) -/

theorem test_illFormed_channel : (Instr.fltProcess 2#16 0#32).wellFormed = false ∧
    (Instr.dlyProcess 2#16 0#32).wellFormed = false ∧ (Instr.choProcess 3#16 0#32).wellFormed = false ∧
    (Instr.revProcess 0x8000#16 0#32).wellFormed = false := by decide
theorem test_illFormed_note : (Instr.pipeNoteOn 128#16 1#32).wellFormed = false ∧
    (Instr.pipeNoteOff 0x80#16).wellFormed = false := by decide
theorem test_illFormed_velocity : (Instr.pipeNoteOn 127#16 128#32).wellFormed = false := by decide

/-! ## Decoding: the words of opcode_table.json with operands written in -/

theorem test_decode_E0 :
    decode 0x0000000000000000#64 = .ok .e0Reset ∧
    decode 0x0001000040490F01#64 = .ok (.e0SetSr 0x40490F01#32) ∧
    decode 0x0002000040490F02#64 = .ok (.e0SetFreq 0x40490F02#32) ∧
    decode 0x0003000040490F03#64 = .ok (.e0SetHarm 0x40490F03#32) ∧
    decode 0x0004000040490F04#64 = .ok (.e0SetTimb 0x40490F04#32) ∧
    decode 0x0005000040490F05#64 = .ok (.e0SetMorph 0x40490F05#32) ∧
    decode 0x0006000040490F06#64 = .ok (.e0SetLevel 0x40490F06#32) ∧
    decode 0x0007000000000000#64 = .ok .e0Produce :=
  ⟨rfl, rfl, rfl, rfl, rfl, rfl, rfl, rfl⟩

theorem test_decode_E1 :
    decode 0x0100000000000000#64 = .ok .e1Reset ∧
    decode 0x0101000040490F09#64 = .ok (.e1SetSr 0x40490F09#32) ∧
    decode 0x0102000040490F0A#64 = .ok (.e1SetFreq 0x40490F0A#32) ∧
    decode 0x0103000040490F0B#64 = .ok (.e1SetHarm 0x40490F0B#32) ∧
    decode 0x0104000040490F0C#64 = .ok (.e1SetTimb 0x40490F0C#32) ∧
    decode 0x0105000040490F0D#64 = .ok (.e1SetMorph 0x40490F0D#32) ∧
    decode 0x0106000040490F0E#64 = .ok (.e1SetLevel 0x40490F0E#32) ∧
    decode 0x0107000000000000#64 = .ok .e1Produce :=
  ⟨rfl, rfl, rfl, rfl, rfl, rfl, rfl, rfl⟩

theorem test_decode_E2 :
    decode 0x0200000000000000#64 = .ok .e2Reset ∧
    decode 0x0201000040490F11#64 = .ok (.e2SetSr 0x40490F11#32) ∧
    decode 0x0202000040490F12#64 = .ok (.e2SetFreq 0x40490F12#32) ∧
    decode 0x0203000040490F13#64 = .ok (.e2SetHarm 0x40490F13#32) ∧
    decode 0x0204000040490F14#64 = .ok (.e2SetTimb 0x40490F14#32) ∧
    decode 0x0205000040490F15#64 = .ok (.e2SetMorph 0x40490F15#32) ∧
    decode 0x0206000040490F16#64 = .ok (.e2SetLevel 0x40490F16#32) ∧
    decode 0x0207000000000000#64 = .ok .e2Produce :=
  ⟨rfl, rfl, rfl, rfl, rfl, rfl, rfl, rfl⟩

theorem test_decode_E3 :
    decode 0x0300000000000000#64 = .ok .e3Reset ∧
    decode 0x0301000040490F19#64 = .ok (.e3SetSr 0x40490F19#32) ∧
    decode 0x0302000040490F1A#64 = .ok (.e3SetFreq 0x40490F1A#32) ∧
    decode 0x0303000040490F1B#64 = .ok (.e3SetHarm 0x40490F1B#32) ∧
    decode 0x0304000040490F1C#64 = .ok (.e3SetTimb 0x40490F1C#32) ∧
    decode 0x0305000040490F1D#64 = .ok (.e3SetMorph 0x40490F1D#32) ∧
    decode 0x0306000040490F1E#64 = .ok (.e3SetLevel 0x40490F1E#32) ∧
    decode 0x0307000000000000#64 = .ok .e3Produce :=
  ⟨rfl, rfl, rfl, rfl, rfl, rfl, rfl, rfl⟩

theorem test_decode_E4 :
    decode 0x0400000000000000#64 = .ok .e4Reset ∧
    decode 0x0401000040490F21#64 = .ok (.e4SetSr 0x40490F21#32) ∧
    decode 0x0402000040490F22#64 = .ok (.e4SetFreq 0x40490F22#32) ∧
    decode 0x0403000040490F23#64 = .ok (.e4SetHarm 0x40490F23#32) ∧
    decode 0x0404000040490F24#64 = .ok (.e4SetTimb 0x40490F24#32) ∧
    decode 0x0405000040490F25#64 = .ok (.e4SetMorph 0x40490F25#32) ∧
    decode 0x0406000040490F26#64 = .ok (.e4SetLevel 0x40490F26#32) ∧
    decode 0x0407000000000000#64 = .ok .e4Produce :=
  ⟨rfl, rfl, rfl, rfl, rfl, rfl, rfl, rfl⟩

theorem test_decode_E5 :
    decode 0x0500000000000000#64 = .ok .e5Reset ∧
    decode 0x0501000040490F29#64 = .ok (.e5SetSr 0x40490F29#32) ∧
    decode 0x0502000040490F2A#64 = .ok (.e5SetFreq 0x40490F2A#32) ∧
    decode 0x0503000040490F2B#64 = .ok (.e5SetHarm 0x40490F2B#32) ∧
    decode 0x0504000040490F2C#64 = .ok (.e5SetTimb 0x40490F2C#32) ∧
    decode 0x0505000040490F2D#64 = .ok (.e5SetMorph 0x40490F2D#32) ∧
    decode 0x0506000040490F2E#64 = .ok (.e5SetLevel 0x40490F2E#32) ∧
    decode 0x0507000000000000#64 = .ok .e5Produce :=
  ⟨rfl, rfl, rfl, rfl, rfl, rfl, rfl, rfl⟩

theorem test_decode_E6 :
    decode 0x0600000000000000#64 = .ok .e6Reset ∧
    decode 0x0601000040490F31#64 = .ok (.e6SetSr 0x40490F31#32) ∧
    decode 0x0602000040490F32#64 = .ok (.e6SetFreq 0x40490F32#32) ∧
    decode 0x0603000040490F33#64 = .ok (.e6SetHarm 0x40490F33#32) ∧
    decode 0x0604000040490F34#64 = .ok (.e6SetTimb 0x40490F34#32) ∧
    decode 0x0605000040490F35#64 = .ok (.e6SetMorph 0x40490F35#32) ∧
    decode 0x0606000040490F36#64 = .ok (.e6SetLevel 0x40490F36#32) ∧
    decode 0x0607000000000000#64 = .ok .e6Produce :=
  ⟨rfl, rfl, rfl, rfl, rfl, rfl, rfl, rfl⟩

theorem test_decode_E7 :
    decode 0x0700000000000000#64 = .ok .e7Reset ∧
    decode 0x0701000040490F39#64 = .ok (.e7SetSr 0x40490F39#32) ∧
    decode 0x0702000040490F3A#64 = .ok (.e7SetFreq 0x40490F3A#32) ∧
    decode 0x0703000040490F3B#64 = .ok (.e7SetHarm 0x40490F3B#32) ∧
    decode 0x0704000040490F3C#64 = .ok (.e7SetTimb 0x40490F3C#32) ∧
    decode 0x0705000040490F3D#64 = .ok (.e7SetMorph 0x40490F3D#32) ∧
    decode 0x0706000040490F3E#64 = .ok (.e7SetLevel 0x40490F3E#32) ∧
    decode 0x0707000000000000#64 = .ok .e7Produce :=
  ⟨rfl, rfl, rfl, rfl, rfl, rfl, rfl, rfl⟩

theorem test_decode_E8 :
    decode 0x0800000000000000#64 = .ok .e8Reset ∧
    decode 0x0801000040490F41#64 = .ok (.e8SetSr 0x40490F41#32) ∧
    decode 0x0802000040490F42#64 = .ok (.e8SetFreq 0x40490F42#32) ∧
    decode 0x0803000040490F43#64 = .ok (.e8SetHarm 0x40490F43#32) ∧
    decode 0x0804000040490F44#64 = .ok (.e8SetTimb 0x40490F44#32) ∧
    decode 0x0805000040490F45#64 = .ok (.e8SetMorph 0x40490F45#32) ∧
    decode 0x0806000040490F46#64 = .ok (.e8SetLevel 0x40490F46#32) ∧
    decode 0x0807000000000000#64 = .ok .e8Produce :=
  ⟨rfl, rfl, rfl, rfl, rfl, rfl, rfl, rfl⟩

theorem test_decode_E9 :
    decode 0x0900000000000000#64 = .ok .e9Reset ∧
    decode 0x0901000040490F49#64 = .ok (.e9SetSr 0x40490F49#32) ∧
    decode 0x0902000040490F4A#64 = .ok (.e9SetFreq 0x40490F4A#32) ∧
    decode 0x0903000040490F4B#64 = .ok (.e9SetHarm 0x40490F4B#32) ∧
    decode 0x0904000040490F4C#64 = .ok (.e9SetTimb 0x40490F4C#32) ∧
    decode 0x0905000040490F4D#64 = .ok (.e9SetMorph 0x40490F4D#32) ∧
    decode 0x0906000040490F4E#64 = .ok (.e9SetLevel 0x40490F4E#32) ∧
    decode 0x0907000000000000#64 = .ok .e9Produce :=
  ⟨rfl, rfl, rfl, rfl, rfl, rfl, rfl, rfl⟩

theorem test_decode_E10 :
    decode 0x0A00000000000000#64 = .ok .e10Reset ∧
    decode 0x0A01000040490F51#64 = .ok (.e10SetSr 0x40490F51#32) ∧
    decode 0x0A02000040490F52#64 = .ok (.e10SetFreq 0x40490F52#32) ∧
    decode 0x0A03000040490F53#64 = .ok (.e10SetHarm 0x40490F53#32) ∧
    decode 0x0A04000040490F54#64 = .ok (.e10SetTimb 0x40490F54#32) ∧
    decode 0x0A05000040490F55#64 = .ok (.e10SetMorph 0x40490F55#32) ∧
    decode 0x0A06000040490F56#64 = .ok (.e10SetLevel 0x40490F56#32) ∧
    decode 0x0A07000000000000#64 = .ok .e10Produce :=
  ⟨rfl, rfl, rfl, rfl, rfl, rfl, rfl, rfl⟩

theorem test_decode_E11 :
    decode 0x0B00000000000000#64 = .ok .e11Reset ∧
    decode 0x0B01000040490F59#64 = .ok (.e11SetSr 0x40490F59#32) ∧
    decode 0x0B02000040490F5A#64 = .ok (.e11SetFreq 0x40490F5A#32) ∧
    decode 0x0B03000040490F5B#64 = .ok (.e11SetHarm 0x40490F5B#32) ∧
    decode 0x0B04000040490F5C#64 = .ok (.e11SetTimb 0x40490F5C#32) ∧
    decode 0x0B05000040490F5D#64 = .ok (.e11SetMorph 0x40490F5D#32) ∧
    decode 0x0B06000040490F5E#64 = .ok (.e11SetLevel 0x40490F5E#32) ∧
    decode 0x0B07000000000000#64 = .ok .e11Produce :=
  ⟨rfl, rfl, rfl, rfl, rfl, rfl, rfl, rfl⟩

theorem test_decode_ADSR :
    decode 0x1000000000000000#64 = .ok .adsrReset ∧
    decode 0x1001000040490F61#64 = .ok (.adsrSetSr 0x40490F61#32) ∧
    decode 0x1008000040490F62#64 = .ok (.adsrSetAttack 0x40490F62#32) ∧
    decode 0x1009000040490F63#64 = .ok (.adsrSetDecay 0x40490F63#32) ∧
    decode 0x100A000040490F64#64 = .ok (.adsrSetSustain 0x40490F64#32) ∧
    decode 0x100B000040490F65#64 = .ok (.adsrSetRelease 0x40490F65#32) ∧
    decode 0x100C000000000000#64 = .ok .adsrGateOn ∧
    decode 0x100D000000000000#64 = .ok .adsrGateOff ∧
    decode 0x100E000000000000#64 = .ok .adsrProcess :=
  ⟨rfl, rfl, rfl, rfl, rfl, rfl, rfl, rfl, rfl⟩

theorem test_decode_AD :
    decode 0x1100000000000000#64 = .ok .adReset ∧
    decode 0x1101000040490F6A#64 = .ok (.adSetSr 0x40490F6A#32) ∧
    decode 0x1108000040490F6B#64 = .ok (.adSetAttack 0x40490F6B#32) ∧
    decode 0x1109000040490F6C#64 = .ok (.adSetDecay 0x40490F6C#32) ∧
    decode 0x110C000000000000#64 = .ok .adGateOn ∧
    decode 0x110D000000000000#64 = .ok .adGateOff ∧
    decode 0x110E000000000000#64 = .ok .adProcess :=
  ⟨rfl, rfl, rfl, rfl, rfl, rfl, rfl⟩

theorem test_decode_LFO :
    decode 0x1200000000000000#64 = .ok .lfoReset ∧
    decode 0x1201000040490F71#64 = .ok (.lfoSetSr 0x40490F71#32) ∧
    decode 0x1202000040490F72#64 = .ok (.lfoSetFreq 0x40490F72#32) ∧
    decode 0x120E000000000000#64 = .ok .lfoProcess ∧
    decode 0x1210000040490F74#64 = .ok (.lfoSetWave 0x40490F74#32) ∧
    decode 0x1211000040490F75#64 = .ok (.lfoSetVar 0x40490F75#32) :=
  ⟨rfl, rfl, rfl, rfl, rfl, rfl⟩

theorem test_decode_FLT :
    decode 0x1800000000000000#64 = .ok .fltReset ∧
    decode 0x1801000040490F77#64 = .ok (.fltSetSr 0x40490F77#32) ∧
    decode 0x180E000140490F78#64 = .ok (.fltProcess 0x0001#16 0x40490F78#32) ∧
    decode 0x1812000040490F79#64 = .ok (.fltSetCutoff 0x40490F79#32) ∧
    decode 0x1813000040490F7A#64 = .ok (.fltSetRes 0x40490F7A#32) ∧
    decode 0x1814000040490F7B#64 = .ok (.fltSetWet 0x40490F7B#32) :=
  ⟨rfl, rfl, rfl, rfl, rfl, rfl⟩

theorem test_decode_DLY :
    decode 0x2000000000000000#64 = .ok .dlyReset ∧
    decode 0x200E000140490F7D#64 = .ok (.dlyProcess 0x0001#16 0x40490F7D#32) ∧
    decode 0x2015000040490F7E#64 = .ok (.dlySetAmount 0x40490F7E#32) :=
  ⟨rfl, rfl, rfl⟩

theorem test_decode_CHO :
    decode 0x2100000000000000#64 = .ok .choReset ∧
    decode 0x210E000140490F80#64 = .ok (.choProcess 0x0001#16 0x40490F80#32) ∧
    decode 0x2115000040490F81#64 = .ok (.choSetAmount 0x40490F81#32) :=
  ⟨rfl, rfl, rfl⟩

theorem test_decode_REV :
    decode 0x2200000000000000#64 = .ok .revReset ∧
    decode 0x220E000140490F83#64 = .ok (.revProcess 0x0001#16 0x40490F83#32) ∧
    decode 0x2215000040490F84#64 = .ok (.revSetAmount 0x40490F84#32) :=
  ⟨rfl, rfl, rfl⟩

theorem test_decode_PIPE :
    decode 0x3F00000000000000#64 = .ok .pipeFullReset ∧
    decode 0x3F20001240490F86#64 = .ok (.pipeParamSet 0x0012#16 0x40490F86#32) ∧
    decode 0x3F21001200000000#64 = .ok (.pipeParamGet 0x0012#16) ∧
    decode 0x3F22004500000064#64 = .ok (.pipeNoteOn 0x0045#16 0x00000064#32) ∧
    decode 0x3F23004500000000#64 = .ok (.pipeNoteOff 0x0045#16) ∧
    decode 0x3F24000040490F8A#64 = .ok (.pipeProcessBlock 0x40490F8A#32) :=
  ⟨rfl, rfl, rfl, rfl, rfl, rfl⟩

/-- Bits an operation ignores do not change what it is (R115, R118). -/
theorem test_decode_ignoresBits : decode 0x000712349ABCDEF0#64 = .ok .e0Produce ∧
    decode 0x180EFFFF3F000000#64 = .ok (.fltProcess 1#16 0x3F000000#32) ∧
    decode 0x3F22FFC5FFFFFFE4#64 = .ok (.pipeNoteOn 0x45#16 0x64#32) := ⟨rfl, rfl, rfl⟩
theorem test_decode_reserved : decode 0x0C00000000000000#64 = .error .reservedUnit ∧
    decode 0x107F000000000000#64 = .error .reservedOp ∧ decode 0x20010000473B8000#64 = .error .reservedOp ∧
    decode 0xFFFFFFFFFFFFFFFF#64 = .error .reservedUnit := ⟨rfl, rfl, rfl, rfl⟩
theorem test_decodeTableWord : decodeTableWord 64 0x3F24000000000030 = some (.pipeProcessBlock 48#32) ∧
    decodeTableWord 64 0x0C00000000000000 = none := ⟨rfl, rfl⟩
theorem test_encode : encode (.pipeParamSet 4#16 0x43DC0000#32) = 0x3F20000443DC0000#64 ∧
    encode (.fltProcess 1#16 0x3F000000#32) = 0x180E00013F000000#64 ∧ encode .adsrGateOn = 0x100C000000000000#64 := by
  decide
theorem test_withFetchWord_runs : low (step (State.reset.withFetchWord 64 0x3F21000500000000)) = NUM.zero ∧
    (after (step (State.reset.withFetchWord 64 0x3F20000540F00000))).pipe.p.words.getD 5 NUM.zero = ⟨0x40F00000#32⟩ := by
  decide +kernel

/-! ## Primitives (95_test_vectors.md, 2.1) -/

theorem test_rng : rngStep 0x5EED0000#32 = 0x7C77F35F#32 ∧ rngStep 0x7C77F35F#32 = 0x1DC52932#32 ∧
    rngStep 0x1DC52932#32 = 0x53BDF6E9#32 ∧ near (rngOut 0x7C77F35F#32) 486205 1 = true := by decide +kernel
theorem test_san : (NUM.mk bitsOneHalf).sanUnit = NUM.one ∧ (NUM.mk bitsMinusFifth).sanUnit = NUM.zero ∧
    (NUM.mk bitsNaN).sanUnit = NUM.zero ∧ (NUM.mk bitsInf).sanUnit = NUM.one := by decide +kernel
theorem test_ftz : (NUM.mk 0x000AE398#32).ftz = NUM.zero ∧ (NUM.mk 0x00800000#32).ftz = ⟨0x00800000#32⟩ ∧
    (NUM.mk 0x800116C2#32).ftz = NUM.zero ∧ (NUM.mk bitsHalf).ftz = ⟨bitsHalf⟩ := by decide +kernel
theorem test_wrap1 : (NUM.ofRat 5 4).wrap1 = NUM.ofRat 1 4 ∧ NUM.one.wrap1 = NUM.zero ∧
    (NUM.ofRat (-1) 4).wrap1 = NUM.ofRat 3 4 := by decide +kernel
theorem test_inc : near (inc cfg (NUM.ofNat 440) cfg.sr) 9167 1 = true ∧
    inc cfg (NUM.ofInt (-5)) cfg.sr = NUM.zero ∧ inc cfg (NUM.ofNat 30000) cfg.sr = NUM.ofRat 1 2 := by decide +kernel
theorem test_polyblep : polyblep cfg NUM.zero (NUM.ofRat 1 10) = NUM.ofInt (-1) ∧
    near (polyblep cfg (NUM.ofRat 5 100) (NUM.ofRat 1 10)) (-250000) 1 = true ∧
    near (polyblep cfg (NUM.ofRat 95 100) (NUM.ofRat 1 10)) 250000 1 = true ∧
    polyblep cfg (NUM.ofRat 3 10) NUM.zero = NUM.zero := by decide +kernel
theorem test_waves : near (blsaw cfg (NUM.ofRat 47 48) (NUM.ofRat 1 48)) 958333 2 = true ∧
    near (blsquare cfg (NUM.ofRat 1 2) (NUM.ofRat 1 48)) 0 2 = true ∧
    near (blpulse cfg (NUM.ofRat 1 4) (NUM.ofRat 1 48) (NUM.ofRat 1 4)) 0 2 = true := by decide +kernel
theorem test_pow : NUM.two.pow NUM.zero = NUM.one ∧ NUM.two.pow NUM.one = NUM.two ∧
    notefreq cfg 69#7 = ⟨0x43DC0000#32⟩ ∧ notefreq cfg 81#7 = ⟨0x445C0000#32⟩ ∧ near (notefreq cfg 60#7) 261625600 60 = true := by
  decide +kernel
theorem test_tanh : near NUM.one.tanh 761594 1 = true ∧ near (NUM.ofRat (-1) 2).tanh (-462117) 1 = true := by
  decide +kernel
theorem test_sel : sel cfg (NUM.ofRat 49 100) = .sine ∧ sel cfg (NUM.ofRat 1 2) = .triangle ∧ sel cfg (NUM.ofRat 14 10) = .triangle ∧
    sel cfg (NUM.ofRat 3 2) = .square ∧ sel cfg (NUM.ofInt (-3)) = .sine ∧ sel cfg (NUM.ofRat 114 10) = .pwm ∧
    sel cfg (NUM.ofNat 12) = .pwm ∧ sel cfg ⟨bitsInf⟩ = .pwm ∧ sel cfg ⟨bitsNaN⟩ = .sine := by decide +kernel
theorem test_strlen : strlen cfg (NUM.ofNat 220) cfg.sr = 218 ∧ strlen cfg NUM.zero cfg.sr = 2048 ∧
    strlen cfg (NUM.ofNat 24000) cfg.sr = 8 ∧ strlen cfg (NUM.ofRat 235 10) cfg.sr = 2043 := by decide +kernel
theorem test_configured_lengths : cfg.dlyCap = 48000 ∧ cfg.choCap = 5136 ∧ cfg.strCap = Config.strLMax ∧
    (cfg.revCombLenL ++ cfg.revApLenL).Pairwise Nat.Coprime ∧
    (cfg.revCombLenR ++ cfg.revApLenR).Pairwise Nat.Coprime := by decide +kernel

/-! ## Buffers (R81 to R85) -/

theorem test_memory : memWrite 10 [] 12 NUM.one = [(2, NUM.one)] ∧ memRead 10 [(2, NUM.one)] (-8) = NUM.one ∧
    memWrite 10 [(2, NUM.one)] 2 NUM.zero = [] ∧
    memWrite 10 [(2, NUM.one), (7, NUM.two)] 5 NUM.one = [(2, NUM.one), (5, NUM.one), (7, NUM.two)] := by decide +kernel
theorem test_memory_wf : Memory.wf 10 [(2, NUM.one), (5, NUM.one)] = true ∧
    Memory.wf 10 [(5, NUM.one), (2, NUM.one)] = false ∧ Memory.wf 10 [(10, NUM.one)] = false ∧
    Memory.wf 10 [(2, NUM.zero)] = false := by decide +kernel

/-! ## The controls of the engines (2.3) -/

theorem test_setSr : (allEngines.all fun k =>
    decide (((after (exec (k.opSetSr 0x472C4400#32) State.reset)).regs k).sr = NUM.ofNat 44100) &&
    [0#32, bitsMinusOne, bitsNaN, bitsInf].all fun v =>
      decide (((after (exec (k.opSetSr v) State.reset)).regs k).sr = NUM.ofNat 48000)) = true := by decide +kernel
theorem test_setFreq : (allEngines.all fun k =>
    decide (((after (exec (k.opSetFreq 0x46EA6000#32) State.reset)).regs k).freq = NUM.ofNat 24000) &&
    [bitsMinusFive, bitsNaN].all fun v =>
      decide (((after (exec (k.opSetFreq v) State.reset)).regs k).freq = NUM.zero)) = true := by decide +kernel
theorem test_setControls : (allEngines.all fun k =>
    decide (((after (exec (k.opSetHarm bitsOneHalf) State.reset)).regs k).harm = NUM.one) &&
    decide (((after (exec (k.opSetTimb bitsHalf) State.reset)).regs k).timb = NUM.ofRat 1 2) &&
    decide (((after (exec (k.opSetMorph bitsInf) State.reset)).regs k).morph = NUM.one) &&
    decide (((after (exec (k.opSetLevel bitsMinusFifth) State.reset)).regs k).level = NUM.zero)) = true := by
  decide +kernel

/-! ## `PRODUCE` and `RESET` of each engine (2.4) -/

theorem test_e0Produce : near (low (exec .e0Produce { State.reset with
    e0 := { regs := regs 0 440 0 0 0, ph := NUM.ofRat 440 48000 } })) 57501 110 = true := by decide +kernel
theorem test_e1Produce : near (low (exec .e1Produce { State.reset with
    e1 := { regs := regs 1 1000 100 0 0, ph := NUM.ofRat 1 48, integ := NUM.ofRat 4 48, lp := NUM.zero } }))
    83141 110 = true := by decide +kernel
theorem test_e2Produce : near (low (exec .e2Produce { State.reset with
    e2 := { regs := regs 2 1000 0 0 0, ph := NUM.ofRat 1 48, lp := NUM.zero } })) 197375 110 = true := by decide +kernel
theorem test_e3Produce : near (low (exec .e3Produce { State.reset with
    e3 := { regs := regs 3 1000 0 0 0, ph := NUM.ofRat 1 48, lp := NUM.zero } })) (-189354) 110 = true := by
  decide +kernel
theorem test_e4Produce : (fun r => near (low r) (-60034) 110 && near (high r) (-10790) 110)
    (exec .e4Produce { State.reset with e4.regs := regs 4 220 50 0 0 }) = true := by decide +kernel
theorem test_e5Produce : (fun r => near (low r) (-757717) 110 && near (high r) 761594 110)
    (exec .e5Produce { State.reset with
      e5 := { regs := regs 5 220 25 0 100, phA := NUM.ofRat 220 48000, phB := NUM.ofRat 32963 4800000 } }) = true := by
  decide +kernel
theorem test_e6Produce : (fun r => near (low r) 28786 110 && decide ((after r).e6.cnt = 2))
    (exec .e6Produce { State.reset with
      e6 := { regs := regs 6 220 0 0 0, phC := NUM.ofRat 220 48000, phM := NUM.ofRat 220 48000, fbz := NUM.zero
              env := NUM.one, cnt := 1 } }) = true := by decide +kernel
theorem test_e7Produce : near (low (exec .e7Produce { State.reset with e7.regs := regs 7 110 0 0 0 })) 19255 110 = true := by
  decide +kernel
theorem test_e8Produce : near (low (exec .e8Produce { State.reset with e8.regs := regs 8 440 0 0 0 })) (-623099) 110 = true ∧
    near (low (exec .e8Produce { State.reset with e8.regs := regs 8 440 0 0 100 })) (-684644) 110 = true := by
  decide +kernel
theorem test_e9Produce : near (low (exec .e9Produce { State.reset with
    e9 := { regs := regs 9 220 100 0 0
            ph := ⟨[NUM.ofRat 4576458 1000000000, NUM.ofRat 5783300 1000000000, NUM.ofRat 6862434 1000000000,
              NUM.ofRat 9173083 1000000000], rfl⟩ } })) (-755996) 120 = true := by decide +kernel
theorem test_e10Produce : (fun r => near (low r) 761594 110 && near (high r) (-462117) 110)
    (exec .e10Produce { State.reset with
      e10 := { State.reset.e10 with
        regs := regs 10 24000 0 0 100, bufA := [(0, NUM.one)], bufB := [(0, NUM.one)], w := 7, excnt := 7 } }) = true := by
  decide +kernel
theorem test_e11Produce : (fun r => near (low r) (-83) 115 && near (high r) (-3349) 115 &&
    near (after r).e11.ch.l.target (-19063) 2 && near (after r).e11.ch.r.target (-771938) 2)
    (exec .e11Produce { State.reset with e11.regs := regs 11 220 50 0 50 }) = true := by decide +kernel
theorem test_resets_zero : (after (exec .e0Reset { State.reset with e0.ph := NUM.one })).e0.ph = NUM.zero ∧
    (after (exec .e1Reset { State.reset with e1.integ := NUM.one, e1.lp := NUM.one })).e1 = State.reset.e1 ∧
    (after (exec .e2Reset { State.reset with e2.lp := NUM.one })).e2 = State.reset.e2 ∧
    (after (exec .e3Reset { State.reset with e3.lp := NUM.one })).e3 = State.reset.e3 ∧
    (after (exec .e5Reset { State.reset with e5.phB := NUM.one })).e5 = State.reset.e5 ∧
    (after (exec .e6Reset { State.reset with e6.env := NUM.one, e6.cnt := 7 })).e6 = State.reset.e6 := by decide +kernel
theorem test_resets_banks : (after (exec .e7Reset { State.reset with e7.ic1 := Bank.fill 3 NUM.one })).e7 = State.reset.e7 ∧
    (after (exec .e9Reset { State.reset with e9.ph := Bank.fill 4 NUM.one })).e9 = State.reset.e9 ∧
    (after (exec .e10Reset { State.reset with e10.bufA := [(3, NUM.one)], e10.w := 4 })).e10 = State.reset.e10 ∧
    (after (exec .e11Reset { State.reset with e11.dcnt := 5 })).e11 = State.reset.e11 := by decide +kernel
theorem test_e4Reset : (fun t => near (bankGet t.ph 0) 487755 1 && near (bankGet t.ph 8) 797170 1 &&
    decide (t.regs.seed = 0xCC135D9B#32))
    (after (exec .e4Reset { State.reset with e4.regs := EngineRegs.powerOn cfg 4 })).e4 = true := by decide +kernel
theorem test_e8Reset : (fun t => near (bankGet t.det 0) 999957 1 && near (bankGet t.ph 0) 841920 1 &&
    near (bankGet t.det 1) 1001219 1 && decide (t.regs.seed = 0x50C980A8#32))
    (after (exec .e8Reset { State.reset with e8.regs := EngineRegs.powerOn cfg 8 })).e8 = true := by decide +kernel

/-! ## Envelopes and LFO (2.5) -/

/-- The ADSR of the spec's first table: A = 0.001, D = 0.01, S = 0.5, R = 0.02. -/
def adsrAt (st : AdsrStage) (level : NUM) : State :=
  { State.reset with adsr := { State.reset.adsr with
      st := st, level := level, a := ⟨0x3A83126F#32⟩, d := ⟨0x3C23D70A#32⟩, s := NUM.ofRat 1 2, r := ⟨0x3CA3D70A#32⟩ } }

theorem test_adsrProcess_up : near (low (exec .adsrProcess (adsrAt .attack NUM.zero))) 20833 1 = true ∧
    (after (exec .adsrProcess (adsrAt .attack (NUM.ofRat 98 100)))).adsr.st = .decay ∧
    low (exec .adsrProcess (adsrAt .attack (NUM.ofRat 98 100))) = NUM.one := by decide +kernel
theorem test_adsrProcess_down : near (low (exec .adsrProcess (adsrAt .decay NUM.one))) 998958 1 = true ∧
    low (exec .adsrProcess (adsrAt .sustain NUM.one)) = NUM.ofRat 1 2 ∧
    near (low (exec .adsrProcess (adsrAt .release NUM.one))) 999479 1 = true ∧
    (after (exec .adsrProcess (adsrAt .release (NUM.ofRat 1 10000)))).adsr.st = .idle := by decide +kernel
theorem test_adsrSetters : (after (exec (.adsrSetAttack bitsMinusOne) State.reset)).adsr.a = NUM.zero ∧
    (after (exec (.adsrSetSustain bitsOneHalf) State.reset)).adsr.s = NUM.one ∧
    (after (exec (.adsrSetRelease bitsHalf) State.reset)).adsr.r = NUM.ofRat 1 2 ∧
    (after (exec (.adsrSetDecay 0x4E6E6B28#32) State.reset)).adsr.d = NUM.ofNat 100 ∧
    (after (exec (.adsrSetSr 0x472C4400#32) State.reset)).adsr.sr = NUM.ofNat 44100 := by decide +kernel
theorem test_adsrGates : (after (exec .adsrGateOn (adsrAt .release NUM.one))).adsr = (adsrAt .attack NUM.one).adsr ∧
    (after (exec .adsrGateOff (adsrAt .decay NUM.one))).adsr = (adsrAt .release NUM.one).adsr ∧
    (after (exec .adsrReset (adsrAt .decay NUM.one))).adsr = (adsrAt .idle NUM.zero).adsr := by decide +kernel
theorem test_adProcess : low (exec .adProcess { State.reset with
      ad := { State.reset.ad with st := .attack, level := NUM.ofRat 98 100, a := ⟨0x3A83126F#32⟩ } }) = NUM.one ∧
    near (low (exec .adProcess { State.reset with
      ad := { State.reset.ad with st := .decay, level := NUM.one, d := ⟨0x3B03126F#32⟩ } })) 989583 1 = true := by
  decide +kernel
theorem test_adControls : (after (exec (.adSetAttack bitsHalf) State.reset)).ad.a = NUM.ofRat 1 2 ∧
    (after (exec (.adSetDecay bitsNaN) State.reset)).ad.d = NUM.zero ∧
    (after (exec (.adSetSr bitsNaN) State.reset)).ad.sr = NUM.ofNat 48000 ∧
    (after (exec .adGateOn State.reset)).ad.st = .attack ∧
    (after (exec .adGateOff { State.reset with ad.st := .decay, ad.level := NUM.one })).ad = State.reset.ad ∧
    (after (exec .adReset { State.reset with ad.st := .attack, ad.level := NUM.one })).ad = State.reset.ad := by
  decide +kernel
/-- The LFO of the spec's table: 6000 Hz, `var` = 2/14 (four steps). -/
def lfoAt (wave : LfoWave) (ph : NUM) : State :=
  { State.reset with lfo := { State.reset.lfo with freq := NUM.ofNat 6000, variation := NUM.ofRat 2 14, wave := wave, ph := ph } }

theorem test_lfoProcess_values : near (low (exec .lfoProcess (lfoAt .sine (NUM.ofRat 1 8)))) 707107 1 = true ∧
    low (exec .lfoProcess (lfoAt .triangle (NUM.ofRat 3 8))) = NUM.ofRat 1 2 ∧
    low (exec .lfoProcess (lfoAt .square (NUM.ofRat 4 8))) = NUM.ofInt (-1) ∧
    near (low (exec .lfoProcess (lfoAt .stepped (NUM.ofRat 2 8)))) (-333333) 1 = true := by decide +kernel
theorem test_lfoProcess_wrap : (fun t => decide (t.lfo.seed = 0x95C49A52#32) && near t.lfo.rnd 170062 1 &&
    decide (t.lfo.ph = NUM.zero)) (after (exec .lfoProcess (lfoAt .sine (NUM.ofRat 7 8)))) = true := by decide +kernel
theorem test_lfoControls : (after (exec (.lfoSetWave 0x40266666#32) State.reset)).lfo.wave = .stepped ∧
    (after (exec (.lfoSetWave 0x41100000#32) State.reset)).lfo.wave = .steppedRandom ∧
    (after (exec (.lfoSetWave bitsNaN) (lfoAt .square NUM.zero))).lfo.wave = .sine ∧
    (after (exec (.lfoSetFreq bitsMinusFive) (lfoAt .sine NUM.zero))).lfo.freq = NUM.zero ∧
    (after (exec (.lfoSetVar bitsOneHalf) State.reset)).lfo.variation = NUM.one ∧
    (after (exec (.lfoSetSr 0x472C4400#32) State.reset)).lfo.sr = NUM.ofNat 44100 ∧
    (after (exec .lfoReset (lfoAt .sine NUM.one))).lfo = (lfoAt .sine NUM.zero).lfo := by decide +kernel

/-! ## Filter and effects (2.6, 2.7) -/

theorem test_fltProcess : (fun r => near (low r) 7 1 && near (bankGet (after r).flt.s.l 0) 61512 1 &&
    near (bankGet (after r).flt.s.l 1) 3784 1 && near (bankGet (after r).flt.s.l 2) 233 1 &&
    near (bankGet (after r).flt.s.l 3) 14 1 && decide ((after r).flt.s.r = Bank.fill 4 NUM.zero))
    (exec (.fltProcess 0#16 bitsHalf) { State.reset with flt.fc := NUM.ofNat 1000, flt.wet := NUM.one }) = true := by
  decide +kernel
theorem test_fltControls : (after (exec (.fltSetCutoff 0x46EA6000#32) State.reset)).flt.fc = NUM.ofNat 21600 ∧
    (after (exec (.fltSetCutoff bitsNaN) State.reset)).flt.fc = NUM.ofNat 20 ∧
    (after (exec (.fltSetRes 0x3F800000#32) State.reset)).flt.res = NUM.ofRat 99 100 ∧
    (after (exec (.fltSetWet bitsOneHalf) State.reset)).flt.wet = NUM.one ∧
    near (after (exec (.fltSetSr 0x472C4400#32) { State.reset with flt.fc := NUM.ofNat 21600 })).flt.fc 19845000000 2000
      = true ∧
    (after (exec .fltReset { State.reset with flt.s := ⟨Bank.fill 4 NUM.one, Bank.fill 4 NUM.one⟩ })).flt =
      State.reset.flt := by decide +kernel
theorem test_dlyProcess : (fun r => decide (low r = NUM.ofRat 1 2) && decide ((after r).dly.ch.l.buf = [(0, NUM.one)]) &&
    decide ((after r).dly.ch.l.w = 1) && decide ((after r).dly.ch.r = State.reset.dly.ch.r))
    (exec (.dlyProcess 0#16 0x3F800000#32) { State.reset with dly.amount := NUM.ofRat 1 2 }) = true := by decide +kernel
theorem test_dlyProcess_clamps : low (exec (.dlyProcess 1#16 bitsInf) State.reset) = NUM.ofNat 16 ∧
    low (exec (.dlyProcess 1#16 bitsNaN) State.reset) = NUM.ofInt (-16) := by decide +kernel
theorem test_delayTimes : dlen cfg NUM.zero = 1920 ∧ dlen cfg (NUM.ofRat 1 4) = 13440 ∧ dlen cfg (NUM.ofRat 1 2) = 24960 ∧
    dlen cfg NUM.one = 47999 := by decide +kernel
/-- R87 in another configuration: `SR = 44100.5` Hz, `DLY_CAP = floor(SR)`; at amount 0 the delay is 0.04 s (R424). -/
theorem test_fractionalRate : (fun c : Config.Parameters NUM => decide (c.dlyCap = 44100) && decide (dlen c NUM.zero = 1764) &&
    decide ((after (execIn c .dlyReset State.reset)).dly = State.reset.dly))
    { cfg with sr := NUM.ofRat 88201 2 } = true := by decide +kernel
theorem test_choProcess : (fun r => decide (low r = ⟨bitsHalf⟩) && near (bankGet (after r).cho.ch.l.phi 0) 33 1 &&
    near (bankGet (after r).cho.ch.l.phi 1) 2100033 1 && decide ((after r).cho.ch.l.buf = [(0, ⟨bitsHalf⟩)]))
    (exec (.choProcess 0#16 bitsHalf) State.reset) = true := by decide +kernel
theorem test_choDelays : near (choDelay cfg NUM.one NUM.zero) 960000000 100 = true ∧
    near (choDelay cfg NUM.one (NUM.ofRat 21 10)) 1291470000 5000 = true ∧
    near (choDelay cfg NUM.one (NUM.ofRat 42 10)) 625310000 5000 = true := by decide +kernel
/-- R446's examples, and the position just below 0 whose wrapped value rounds to the capacity (log 25). -/
theorem test_fread : fread cfg [(0, NUM.one), (5135, NUM.two)] (NUM.ofRat (-3) 10) = NUM.two ∧
    near (fread cfg [(9, NUM.one), (10, NUM.two)] (NUM.ofRat 9708 1000)) 1708000 1 = true ∧
    fread cfg [(0, NUM.one), (5135, NUM.two)] (NUM.ofRat (-1) 8192) = NUM.one := by decide +kernel
theorem test_revProcess : (fun r => near (low r) 400000 1 && near (memRead 1103 (after r).rev.ch.l.comb0.buf 0) 800000 1 &&
    decide ((after r).rev.ch.l.ap1.idx = 1))
    (exec (.revProcess 0#16 0x3F4CCCCD#32) { State.reset with rev.amount := NUM.ofRat 1 2 }) = true := by decide +kernel
theorem test_revProcess_echo : near (low (exec (.revProcess 1#16 0#32) { State.reset with
    rev.amount := NUM.one, rev.ch.r.comb0.buf := [(0, NUM.one)] })) 62419 1 = true := by decide +kernel
theorem test_effectControls : (after (exec (.dlySetAmount bitsOneHalf) State.reset)).dly.amount = NUM.one ∧
    (after (exec (.choSetAmount bitsHalf) State.reset)).cho.amount = NUM.ofRat 1 2 ∧
    (after (exec (.revSetAmount bitsNaN) { State.reset with rev.amount := NUM.one })).rev.amount = NUM.zero ∧
    (after (exec .dlyReset { State.reset with dly.ch.l.w := 5, dly.ch.r.buf := [(1, NUM.one)] })).dly = State.reset.dly ∧
    (after (exec .choReset { State.reset with cho.ch.l.phi := Bank.fill 3 NUM.one })).cho = State.reset.cho ∧
    (after (exec .revReset { State.reset with rev.ch.l.ap0.idx := 3 })).rev = State.reset.rev := by decide +kernel

/-! ## Pipeline (2.8 and programs P1, P5) -/

/-- The parameters of program P1. -/
def p1Params : Bank 19 NUM :=
  ⟨[0#32, 0#32, 0#32, 0#32, 0x43DC0000#32, 0x3F800000#32, 0x3A83126F#32, 0x3DCCCCCD#32, 0x3F800000#32, 0x3DCCCCCD#32,
    0#32, 0#32, 0#32, 0#32, 0#32, 0#32, 0x447A0000#32, 0#32, 0#32].map NUM.mk, rfl⟩

/-- P1 after its first frame: the second frame is 2/48 of the sine's second sample. -/
def p1Second : State :=
  { State.reset with
    e0.ph := NUM.ofRat 440 48000
    adsr.st := .attack
    adsr.level := NUM.ofRat 1 48
    pipe := { State.reset.pipe with
      p := p1Params, heldNote := 69#7, noteFreq := NUM.ofNat 440, gate := true, hasNote := true, selPrev := 0#4
      wasSilent := false } }

theorem test_processBlock_frame : (fun r => decide ((after r).audio.length = 1) &&
    near ⟨((after r).audio.getLastD 0#64).extractLsb' 0 32⟩ 2396 6 && decide ((after r).dly.ch.l.w = 1))
    (exec (.pipeProcessBlock 1#32) p1Second) = true := by decide +kernel
theorem test_processBlock_empty : (fun r => decide ((after r).audio = []) && decide (low r = NUM.zero) &&
    decide ((after r).adsr.s = NUM.one) && decide ((after r).flt.fc = NUM.ofNat 1000))
    (exec (.pipeProcessBlock 0#32) { State.reset with pipe.p := p1Params }) = true := by decide +kernel
theorem test_noteOn : (fun t => decide (t.pipe.noteFreq = NUM.ofNat 440) && t.pipe.gate && decide (t.adsr.st = .attack) &&
    decide (t.pipe.heldNote = 69#7)) (after (exec (.pipeNoteOn 69#16 100#32) State.reset)) = true ∧
    (after (exec (.pipeNoteOn 69#16 0#32) State.reset)).pipe = State.reset.pipe := by decide +kernel
theorem test_noteOff : (after (exec (.pipeNoteOff 61#16) p1Second)).pipe = p1Second.pipe ∧
    (after (exec (.pipeNoteOff 69#16) p1Second)).pipe.gate = false ∧
    (after (exec (.pipeNoteOff 69#16) p1Second)).adsr.st = .release := by decide +kernel
theorem test_paramSet : bankGet (after (exec (.pipeParamSet 18#16 bitsHalf) State.reset)).pipe.p 18 = ⟨bitsHalf⟩ ∧
    (after (exec (.pipeParamSet 19#16 bitsHalf) State.reset)).pipe = State.reset.pipe := by decide +kernel
theorem test_paramGet : low (exec (.pipeParamGet 4#16) p1Second) = ⟨0x43DC0000#32⟩ ∧
    low (exec (.pipeParamGet 200#16) p1Second) = NUM.zero := by decide +kernel
theorem test_fullReset : (fun t => decide (t.pipe.p = p1Params) && decide (t.pipe.gate = false) &&
    decide (t.adsr = State.reset.adsr) && decide (t.e0 = State.reset.e0)) (after (exec .pipeFullReset p1Second)) = true := by
  decide +kernel

/-! ## Witnesses: the hypotheses of each statement can be met -/

theorem witness_DecodeOfEncodeIsIdentity : (Instr.pipeNoteOn 127#16 127#32).wellFormed = true ∧
    (Instr.fltProcess 1#16 0xFFFFFFFF#32).wellFormed = true ∧ (Instr.pipeParamSet 0xFFFF#16 0#32).wellFormed = true := by
  decide
theorem witness_DecodedOperationIsWellFormed :
    decode 0x3F22FFFF000000FF#64 = .ok (.pipeNoteOn 0x7F#16 0x7F#32) := rfl
theorem witness_Reserved_word :
    ({ State.reset with cmds := [0x2001000000000000#64] } : State).cmds = 0x2001000000000000#64 :: [] ∧
    ∀ r ∈ opRows, ¬ (r.unit = unitField 0x2001000000000000#64 ∧ r.op = opField 0x2001000000000000#64) :=
  ⟨rfl, by decide +kernel⟩
theorem witness_Reserved_ignored : (0xFFFF#16 &&& idxMask 0x18#8 0x0E#8 = 0x0001#16 &&& idxMask 0x18#8 0x0E#8) ∧
    (0xFFFFFFFF#32 &&& dataMask 0x3F#8 0x22#8 = 0x7F#32 &&& dataMask 0x3F#8 0x22#8) ∧
    (0xFFFF#16 &&& idxMask 0x3F#8 0x23#8 = 0x007F#16 &&& idxMask 0x3F#8 0x23#8) ∧
    (0x1234#16 &&& idxMask 0x00#8 0x01#8 = 0#16 &&& idxMask 0x00#8 0x01#8) ∧
    (7#32 &&& dataMask 0x10#8 0x0E#8 = 0#32 &&& dataMask 0x10#8 0x0E#8) := by decide
theorem witness_StepRunsTheDecodedOperation :
    ({ State.reset with cmds := [0x0007000000000000#64] } : State).cmds = 0x0007000000000000#64 :: [] ∧
    decode 0x0007000000000000#64 = .ok .e0Produce ∧ State.reset.cmds = [] := ⟨rfl, rfl, rfl⟩
/-- A block of `MAX_FRAMES` frames is within the promise; 25000 is the longest of the spec's own programs. -/
theorem witness_withinPromise :
    ({ State.reset with cmds := [0x3F240000000061A8#64] } : State).withinPromise (Config.referenceAt 25000#32) := by
  intro cw rest i h hd
  cases h
  have : decode 0x3F240000000061A8#64 = .ok (.pipeProcessBlock 25000#32) := rfl
  rw [this] at hd
  cases hd
  exact Nat.le_refl 25000
theorem witness_DrawingResetsDrawInOrder : (8 < 9) ∧ (15 < 16) := by decide
/-- The premises of the first clause in the state after power-on, with its clause on NaN for every engine; those of the
second in the reference configuration. -/
theorem witness_EngineOutputNeverExceedsItsLevel :
    (allEngines.all fun k => (State.reset.regs k).level.inUnit && State.reset.engineTame k) = true ∧
    cfg.Admissible ∧ 11 < 12 ∧ (NUM.one.add ((State.reset.regs .pwm).noise cfg)).isNaN = false :=
  ⟨by decide +kernel, Config.reference_admissible, by decide, by decide +kernel⟩
theorem witness_SustainLevelHolds :
    let s := ({ adsrAt .sustain NUM.one with cmds := [0x100E000000000000#64, 0x100E000000000000#64] } : State)
    s.adsr.st = .sustain ∧ s.adsr.s.inUnit = true ∧ s.adsr.s.flushed = true ∧
    s.cmds = List.replicate 2 (encode .adsrProcess) ++ [] := by decide +kernel
theorem witness_StatusBitsChangeOnlyByTheirWriters :
    withinMaxFrames (Config.referenceAt 1#32) (.pipeProcessBlock 1#32) ∧ writesGate (.pipeProcessBlock 1#32) = false ∧
    writesHasNote (.pipeProcessBlock 1#32) = false ∧
    exec (.pipeProcessBlock 1#32) State.reset = .next (after (exec (.pipeProcessBlock 1#32) State.reset)) ∧
    withinMaxFrames (Config.referenceAt 0#32) .e0Reset ∧
    exec .e0Reset State.reset = .next (after (exec .e0Reset State.reset)) ∧ writesAdsrStage .e0Reset = false ∧
    writesAdStage .e0Reset = false ∧ writesGate .e0Reset = false ∧ writesHasNote .e0Reset = false ∧
    writesWasSilent .e0Reset = false :=
  ⟨Nat.le_refl 1, rfl, rfl, rfl, trivial, rfl, rfl, rfl, rfl, rfl, rfl⟩
theorem witness_UnitsOwnTheirState : exec .e0Reset State.reset = .next (after (exec .e0Reset State.reset)) ∧
    ([0x01#8, 0x02#8, 0x03#8, 0x04#8, 0x05#8, 0x06#8, 0x07#8, 0x08#8, 0x09#8, 0x0A#8, 0x0B#8, 0x10#8, 0x11#8, 0x12#8,
      0x18#8, 0x20#8, 0x21#8, 0x22#8, 0x3F#8].all fun u => !mayTouch u .e0Reset) = true ∧
    exec .dlyReset State.reset = .next (after (exec .dlyReset State.reset)) ∧ mayTouch 0x00#8 .dlyReset = false :=
  ⟨rfl, by decide, rfl, by decide⟩
theorem witness_LfoGeneratorIgnoresTheWaveform :
    let s := ({ lfoAt .sine NUM.zero with cmds := [encode (.lfoSetWave 0#32), encode .lfoProcess] } : State)
    let s' := ({ lfoAt .square NUM.zero with cmds := [encode (.lfoSetWave bitsInf), encode .lfoProcess] } : State)
    [0#32].length = [bitsInf].length ∧ { s'.lfo with wave := s.lfo.wave } = s.lfo ∧
    s.cmds = [0#32].flatMap (fun v => [encode (.lfoSetWave v), encode .lfoProcess]) ∧
    s'.cmds = [bitsInf].flatMap (fun v => [encode (.lfoSetWave v), encode .lfoProcess]) := ⟨rfl, rfl, rfl, rfl⟩
theorem witness_DryUnitReturnsItsInput : State.reset.flt.wet.key = 0 ∧ State.reset.dly.amount.key = 0 ∧
    State.reset.cho.amount.key = 0 ∧ State.reset.rev.amount.key = 0 ∧ State.reset.flt.tame cfg = true ∧
    State.reset.dly.ch.l.tame = true ∧ State.reset.dly.ch.r.tame = true ∧ State.reset.cho.ch.l.tame cfg = true ∧
    State.reset.cho.ch.r.tame cfg = true ∧ State.reset.rev.ch.l.tame = true ∧ State.reset.rev.ch.r.tame = true := by
  decide +kernel
/-- A buffer in canonical form with words at both ends, of each capacity. -/
theorem witness_DelayWritesOneWord : (0xFFFE#16).getLsbD 0 = false ∧ (0xFFFF#16).getLsbD 0 = true ∧
    Memory.wf cfg.dlyCap [(0, NUM.one), (47999, NUM.two)] = true ∧
    Memory.wf cfg.choCap [(0, NUM.one), (5135, NUM.two)] = true ∧
    Memory.wf 1103 [(0, NUM.one), (1102, NUM.two)] = true ∧
    Memory.wf cfg.strCap [(0, NUM.one), (2047, NUM.two)] = true := by decide +kernel
theorem witness_ChorusProcessesOneSample : (2 < 3) := by decide
theorem witness_ParameterAccess : (18#16).toNat ≤ 18 ∧ 18 < (19#16).toNat ∧ (0#16).toNat ≤ 18 := by decide
theorem witness_ParameterGetSeesTheLastSet : (18#16).toNat ≤ 18 ∧ (0#16).toNat ≤ 18 ∧
    ({ State.reset with cmds := [0x3F2000123F000000#64, 0x3F21001200000000#64] } : State).cmds =
      encode (.pipeParamSet 18#16 bitsHalf) :: encode (.pipeParamGet 18#16) :: [] := by decide
theorem witness_OnlyTheHostWritesParameters :
    withinMaxFrames (Config.referenceAt 1#32) (.pipeProcessBlock 1#32) ∧ isParamSet (.pipeProcessBlock 1#32) = false ∧
    exec (.pipeProcessBlock 1#32) State.reset = .next (after (exec (.pipeProcessBlock 1#32) State.reset)) ∧
    withinMaxFrames (Config.referenceAt 0#32) .e0Reset ∧ isProcessBlock .e0Reset = false ∧
    exec .e0Reset State.reset = .next (after (exec .e0Reset State.reset)) :=
  ⟨Nat.le_refl 1, rfl, rfl, trivial, rfl, rfl⟩
theorem witness_ConcertPitchIsExact : (1#32).extractLsb' 0 7 ≠ 0#7 := by decide
/-- One word for each clause of the selector's statement: NaN; just below 0.5; 11.5; and 0.5, 10.5 for two engines. -/
theorem witness_SelectorRoundsToTheNearestEngine : (NUM.mk bitsNaN).isNaN = true ∧
    (NUM.mk 0x3EFFFFFF#32).lt (NUM.ofRat 1 2) = true ∧ (NUM.ofRat 23 2).le ⟨0x41380000#32⟩ = true ∧
    (NUM.ofRat (2 * (Engine.triangle.index : Int) - 1) 2).le ⟨bitsHalf⟩ = true ∧
    (NUM.mk bitsHalf).lt (NUM.ofRat (2 * (Engine.triangle.index : Int) + 1) 2) = true ∧
    (NUM.ofRat (2 * (Engine.pwm.index : Int) - 1) 2).le ⟨0x41280000#32⟩ = true ∧
    (NUM.mk 0x41280000#32).lt (NUM.ofRat (2 * (Engine.pwm.index : Int) + 1) 2) = true := by decide +kernel
theorem witness_OneFrameRunsTheSevenSteps : countOf 1#32 ≤ (1#32).toNat := by decide
theorem witness_BlockEmitsExactlyItsFrames : countOf 25000#32 ≤ (25000#32).toNat ∧ countOf 0#32 ≤ (0#32).toNat ∧
    countOf 0xFFFFFFFF#32 ≤ (0xFFFFFFFF#32).toNat := by decide
theorem witness_UnselectedEngineDoesNotMatter : countOf 1#32 ≤ (1#32).toNat ∧
    sel cfg (bankGet State.reset.pipe.p 0) ≠ .saw ∧
    exec (.pipeProcessBlock 1#32) State.reset = .next (after (exec (.pipeProcessBlock 1#32) State.reset)) :=
  ⟨by decide, by decide +kernel, rfl⟩
theorem witness_BlockBoundariesAreInvisible : (24#32).toNat + (24#32).toNat < 2 ^ 32 ∧
    countOf (24#32 + 24#32) ≤ (48#32).toNat := by decide
/-- The edge clause: a gated voice with an instantaneous attack after reset. The other clause: an idle voice. -/
theorem witness_SilenceToActiveEdge :
    (let s := ({ State.reset with adsr.st := .attack } : State)
     (s.pipe.wasSilent && !((s.startBlock cfg).adsr.process cfg).level.lt cfg.silenceThresh)) = true ∧
    (State.reset.pipe.wasSilent && !((State.reset.startBlock cfg).adsr.process cfg).level.lt cfg.silenceThresh) = false := by
  decide +kernel
theorem witness_PowerOnValues : Engine.sine ≠ .supersaw ∧ Engine.sine ≠ .additive ∧ (8 < 9) ∧ (15 < 16) := by decide
/-- The configuration premise of the clauses about every configuration (R7, R89). -/
theorem witness_Admissible : cfg.Admissible ∧ (Config.referenceAt 1#32).Admissible ∧
    1 ≤ (Config.referenceAt 1#32).maxFrames.toNat :=
  ⟨Config.reference_admissible, admissible_withMaxFrames Config.reference_admissible 1#32, Nat.le_refl 1⟩
/-- The reference configuration with another `ENGINE_BODY[0]` (R172): silence, no draw, the phase kept. -/
def silentSine : Config.Parameters NUM :=
  { cfg with engineBody := { sine := some fun e _ => ⟨e, 0, NUM.zero, NUM.zero⟩ } }
theorem test_engineBody : ((p1Second.e0.produce silentSine).2.ph = p1Second.e0.ph) ∧
    (p1Second.e0.produce silentSine).1 = (outstage silentSine 0 p1Second.e0.regs NUM.zero NUM.zero).1 := ⟨rfl, rfl⟩
/-- A body other than the spec's that meets the premise of R172. -/
theorem witness_BodiesAdmissible : silentSine.Admissible :=
  { Config.reference_admissible with
    functions := { Config.reference_admissible.functions with }
    globals := { Config.reference_admissible.globals with }
    oscillators := { Config.reference_admissible.oscillators with }
    stringPwm := { Config.reference_admissible.stringPwm with }
    effects := { Config.reference_admissible.effects with }
    bodies := by
      have zero : cfg.Within (Set.Icc (-0) 0) NUM.zero := by
        have h := Config.reference_admissible.arithmetic.zero
        exact ⟨h.1, by rw [show cfg.value NUM.zero = 0 from h.2]; simp⟩
      have flat : cfg.ftz NUM.zero = NUM.zero := by decide +kernel
      constructor
      · refine ⟨fun f hf e d _ => rfl, fun f hf => ⟨fun e => e.ph = NUM.zero, 0, ?_⟩⟩
        cases hf
        exact ⟨fun _ => rfl, fun _ _ h => h,
          fun e d h _ _ => ⟨h, fun w hw => by cases List.mem_singleton.1 hw; rw [h]; exact ⟨zero.1, flat⟩⟩,
          fun _ _ _ _ _ => ⟨zero, zero⟩⟩
      all_goals exact ⟨nofun, nofun⟩ }
/-- A state of program P1 that meets all four properties together, with the premises on the command and a next state. -/
theorem witness_EveryStepKeepsTheInvariants :
    let s := ({ p1Second with cmds := [0x0007000000000000#64] } : State)
    s.withinPromise (Config.referenceAt 0#32) ∧ s.withinPromise cfg ∧ s.keepsRates ∧ s.wellShaped cfg = true ∧ s.flushed = true ∧ s.legal = true ∧ s.tuned = true ∧
    step s = .next (after (step s)) ∧ stepIn cfg s = .next (after (stepIn cfg s)) := by
  have produce : ∀ c : Config.Parameters NUM,
      ({ p1Second with cmds := [0x0007000000000000#64] } : State).withinPromise c := by
    intro c cw rest i h hd
    cases h
    have : decode 0x0007000000000000#64 = .ok .e0Produce := rfl
    rw [this] at hd
    cases hd
    trivial
  refine ⟨produce _, produce _, ?_, by decide +kernel, by decide +kernel, by decide +kernel, by decide +kernel, rfl, rfl⟩
  · intro cw rest h
    cases h
    decide

end Sys2Proof.Tests
end

/-! Every step keeps the state free of denormals (R12, R170). The invariant is the flush of the state taken apart unit
by unit; each operation of a unit keeps the unit's part, because every word it writes is 0, a constant of the
configuration or the result of `ftz`. -/

namespace Sys2Proof.Machine

/-! ## Flushed words -/

theorem zero_flushed : NUM.zero.flushed = true := by simp [NUM.flushed, NUM.ftz_zero]

/-- The rules write `cfg.ftz v`, which in the reference configuration is `v.ftz`. -/
@[simp] theorem reference_ftz_flushed (v : NUM) : (Config.reference.ftz v).flushed = true := ftz_flushed v

theorem reference_one_flushed : Config.reference.one.flushed = true := by decide +kernel

theorem reference_sr_flushed : Config.reference.sr.flushed = true := by decide +kernel

theorem reference_fcMin_flushed : Config.reference.fcMin.flushed = true := by decide +kernel

theorem fill_zero_flushed (n : Nat) : (Bank.fill n NUM.zero).flushed = true := by
  simp [Bank.flushed, Bank.fill, zero_flushed]

theorem bankMap_flushed {n : Nat} (f : Nat → NUM → NUM) (b : Bank n NUM) (h : ∀ i v, (f i v).flushed = true) :
    (bankMap f b).flushed = true := bankMap_all f b _ h

theorem memory_nil_flushed : Memory.flushed [] = true := rfl

theorem Chan.forall_iff {P : Chan → Prop} : (∀ c, P c) ↔ P .left ∧ P .right :=
  ⟨fun h => ⟨h .left, h .right⟩, fun ⟨hl, hr⟩ c => by cases c; exacts [hl, hr]⟩

/-- What holds of both channels still holds after one of them is replaced by a value it holds of. -/
theorem forall_stereoSet {α : Type} {P : α → Prop} {x : Stereo α} (h : ∀ d, P (stereoGet x d)) (c : Chan) {v : α}
    (hv : P v) : ∀ d, P (stereoGet (stereoSet x c v) d) := by
  intro d
  cases c <;> cases d
  · exact hv
  · exact h .right
  · exact h .left
  · exact hv

/-! ## The control registers of an engine (R153 to R158, R163) -/

section
variable {r : EngineRegs NUM}

theorem EngineRegs.flushed_iff : r.flushed = true ↔
    r.sr.flushed = true ∧ r.freq.flushed = true ∧ r.harm.flushed = true ∧ r.timb.flushed = true ∧
      r.morph.flushed = true ∧ r.level.flushed = true := by
  simp only [EngineRegs.flushed, Bool.and_eq_true, and_assoc]

@[simp] theorem EngineRegs.setSr_flushed (h : r.flushed = true) (v : NUM) :
    (r.setSr Config.reference v).flushed = true := by
  unfold EngineRegs.setSr
  split
  · obtain ⟨-, hrest⟩ := EngineRegs.flushed_iff.1 h
    exact EngineRegs.flushed_iff.2 ⟨reference_ftz_flushed v, hrest⟩
  · exact h

@[simp] theorem EngineRegs.setFreq_flushed (h : r.flushed = true) (v : NUM) :
    (r.setFreq Config.reference v).flushed = true := by
  obtain ⟨hsr, -, hrest⟩ := EngineRegs.flushed_iff.1 h
  exact EngineRegs.flushed_iff.2 ⟨hsr, reference_ftz_flushed _, hrest⟩

@[simp] theorem EngineRegs.setHarm_flushed (h : r.flushed = true) (v : NUM) :
    (r.setHarm Config.reference v).flushed = true := by
  obtain ⟨hsr, hfreq, -, hrest⟩ := EngineRegs.flushed_iff.1 h
  exact EngineRegs.flushed_iff.2 ⟨hsr, hfreq, reference_ftz_flushed _, hrest⟩

@[simp] theorem EngineRegs.setTimb_flushed (h : r.flushed = true) (v : NUM) :
    (r.setTimb Config.reference v).flushed = true := by
  obtain ⟨hsr, hfreq, hharm, -, hrest⟩ := EngineRegs.flushed_iff.1 h
  exact EngineRegs.flushed_iff.2 ⟨hsr, hfreq, hharm, reference_ftz_flushed _, hrest⟩

@[simp] theorem EngineRegs.setMorph_flushed (h : r.flushed = true) (v : NUM) :
    (r.setMorph Config.reference v).flushed = true := by
  obtain ⟨hsr, hfreq, hharm, htimb, -, hlevel⟩ := EngineRegs.flushed_iff.1 h
  exact EngineRegs.flushed_iff.2 ⟨hsr, hfreq, hharm, htimb, reference_ftz_flushed _, hlevel⟩

@[simp] theorem EngineRegs.setLevel_flushed (h : r.flushed = true) (v : NUM) :
    (r.setLevel Config.reference v).flushed = true := by
  obtain ⟨hsr, hfreq, hharm, htimb, hmorph, -⟩ := EngineRegs.flushed_iff.1 h
  exact EngineRegs.flushed_iff.2 ⟨hsr, hfreq, hharm, htimb, hmorph, reference_ftz_flushed _⟩

/-- The pipeline's four setters (R503). -/
theorem EngineRegs.program_flushed (h : r.flushed = true) (freq harm timb morph : NUM) :
    (r.program Config.reference freq harm timb morph).flushed = true := by
  unfold EngineRegs.program
  exact setMorph_flushed (setTimb_flushed (setHarm_flushed (setFreq_flushed h freq) harm) timb) morph

theorem EngineRegs.powerOn_flushed (k : Nat) : (EngineRegs.powerOn Config.reference k).flushed = true :=
  EngineRegs.flushed_iff.2 ⟨reference_sr_flushed, zero_flushed, zero_flushed, zero_flushed, zero_flushed,
    reference_one_flushed⟩

end

/-! ## The engines: RESET and PRODUCE

Of the control registers PRODUCE moves the seed alone, which is no `NUM` word (R166, R168). -/

/-- The words of E0 are flushed (R39). -/
structure SineOsc.WordsFlushed (e : SineOsc NUM) : Prop where
  regs : e.regs.flushed = true
  ph : e.ph.flushed = true

theorem SineOsc.wordsFlushed_iff {e : SineOsc NUM} : e.WordsFlushed ↔ e.regs.flushed = true ∧ e.ph.flushed = true :=
  ⟨fun h => ⟨h.regs, h.ph⟩, fun ⟨hregs, hph⟩ => ⟨hregs, hph⟩⟩

theorem SineOsc.WordsFlushed.reset {e : SineOsc NUM} (h : e.WordsFlushed) : (e.reset Config.reference).WordsFlushed :=
  { h with ph := zero_flushed }

theorem SineOsc.WordsFlushed.produce {e : SineOsc NUM} (h : e.WordsFlushed) :
    (e.produce Config.reference).2.WordsFlushed where
  regs := h.regs
  ph := phaseNext_flushed _ _

/-- The words of E1 are flushed (R40). -/
structure TriangleOsc.WordsFlushed (e : TriangleOsc NUM) : Prop where
  regs : e.regs.flushed = true
  ph : e.ph.flushed = true
  integ : e.integ.flushed = true
  lp : e.lp.flushed = true

theorem TriangleOsc.wordsFlushed_iff {e : TriangleOsc NUM} : e.WordsFlushed ↔
    e.regs.flushed = true ∧ e.ph.flushed = true ∧ e.integ.flushed = true ∧ e.lp.flushed = true :=
  ⟨fun h => ⟨h.regs, h.ph, h.integ, h.lp⟩, fun ⟨hregs, hph, hinteg, hlp⟩ => ⟨hregs, hph, hinteg, hlp⟩⟩

theorem TriangleOsc.WordsFlushed.reset {e : TriangleOsc NUM} (h : e.WordsFlushed) :
    (e.reset Config.reference).WordsFlushed :=
  { h with ph := zero_flushed, integ := zero_flushed, lp := zero_flushed }

theorem TriangleOsc.WordsFlushed.produce {e : TriangleOsc NUM} (h : e.WordsFlushed) :
    (e.produce Config.reference).2.WordsFlushed where
  regs := h.regs
  ph := phaseNext_flushed _ _
  integ := reference_ftz_flushed _
  lp := reference_ftz_flushed _

/-- The words of E2 are flushed (R41). -/
structure SquareOsc.WordsFlushed (e : SquareOsc NUM) : Prop where
  regs : e.regs.flushed = true
  ph : e.ph.flushed = true
  lp : e.lp.flushed = true

theorem SquareOsc.wordsFlushed_iff {e : SquareOsc NUM} : e.WordsFlushed ↔
    e.regs.flushed = true ∧ e.ph.flushed = true ∧ e.lp.flushed = true :=
  ⟨fun h => ⟨h.regs, h.ph, h.lp⟩, fun ⟨hregs, hph, hlp⟩ => ⟨hregs, hph, hlp⟩⟩

theorem SquareOsc.WordsFlushed.reset {e : SquareOsc NUM} (h : e.WordsFlushed) :
    (e.reset Config.reference).WordsFlushed :=
  { h with ph := zero_flushed, lp := zero_flushed }

theorem SquareOsc.WordsFlushed.produce {e : SquareOsc NUM} (h : e.WordsFlushed) :
    (e.produce Config.reference).2.WordsFlushed where
  regs := h.regs
  ph := phaseNext_flushed _ _
  lp := reference_ftz_flushed _

/-- The words of E3 are flushed (R42). -/
structure SawOsc.WordsFlushed (e : SawOsc NUM) : Prop where
  regs : e.regs.flushed = true
  ph : e.ph.flushed = true
  lp : e.lp.flushed = true

theorem SawOsc.wordsFlushed_iff {e : SawOsc NUM} : e.WordsFlushed ↔
    e.regs.flushed = true ∧ e.ph.flushed = true ∧ e.lp.flushed = true :=
  ⟨fun h => ⟨h.regs, h.ph, h.lp⟩, fun ⟨hregs, hph, hlp⟩ => ⟨hregs, hph, hlp⟩⟩

theorem SawOsc.WordsFlushed.reset {e : SawOsc NUM} (h : e.WordsFlushed) : (e.reset Config.reference).WordsFlushed :=
  { h with ph := zero_flushed, lp := zero_flushed }

theorem SawOsc.WordsFlushed.produce {e : SawOsc NUM} (h : e.WordsFlushed) :
    (e.produce Config.reference).2.WordsFlushed where
  regs := h.regs
  ph := phaseNext_flushed _ _
  lp := reference_ftz_flushed _

/-- The words of E4 are flushed (R43). -/
structure SupersawBank.WordsFlushed (e : SupersawBank NUM) : Prop where
  regs : e.regs.flushed = true
  ph : e.ph.flushed = true

theorem SupersawBank.wordsFlushed_iff {e : SupersawBank NUM} : e.WordsFlushed ↔
    e.regs.flushed = true ∧ e.ph.flushed = true :=
  ⟨fun h => ⟨h.regs, h.ph⟩, fun ⟨hregs, hph⟩ => ⟨hregs, hph⟩⟩

/-- The reset draws the phases and stores them flushed (R231). -/
theorem SupersawBank.WordsFlushed.reset {e : SupersawBank NUM} (h : e.WordsFlushed) :
    (e.reset Config.reference).WordsFlushed where
  regs := h.regs
  ph := drawPhases_all _ _ _ _ fun _ => reference_ftz_flushed _

theorem SupersawBank.WordsFlushed.produce {e : SupersawBank NUM} (h : e.WordsFlushed) :
    (e.produce Config.reference).2.WordsFlushed where
  regs := h.regs
  ph := bankMap_flushed _ _ fun _ _ => phaseNext_flushed _ _

/-- The words of E5 are flushed (R44). -/
structure VirtualAnalog.WordsFlushed (e : VirtualAnalog NUM) : Prop where
  regs : e.regs.flushed = true
  phA : e.phA.flushed = true
  phB : e.phB.flushed = true

theorem VirtualAnalog.wordsFlushed_iff {e : VirtualAnalog NUM} : e.WordsFlushed ↔
    e.regs.flushed = true ∧ e.phA.flushed = true ∧ e.phB.flushed = true :=
  ⟨fun h => ⟨h.regs, h.phA, h.phB⟩, fun ⟨hregs, hphA, hphB⟩ => ⟨hregs, hphA, hphB⟩⟩

theorem VirtualAnalog.WordsFlushed.reset {e : VirtualAnalog NUM} (h : e.WordsFlushed) :
    (e.reset Config.reference).WordsFlushed :=
  { h with phA := zero_flushed, phB := zero_flushed }

theorem VirtualAnalog.WordsFlushed.produce {e : VirtualAnalog NUM} (h : e.WordsFlushed) :
    (e.produce Config.reference).2.WordsFlushed where
  regs := h.regs
  phA := phaseNext_flushed _ _
  phB := phaseNext_flushed _ _

/-- The words of E6 are flushed (R45). -/
structure FmPair.WordsFlushed (e : FmPair NUM) : Prop where
  regs : e.regs.flushed = true
  phC : e.phC.flushed = true
  phM : e.phM.flushed = true
  fbz : e.fbz.flushed = true
  env : e.env.flushed = true

theorem FmPair.wordsFlushed_iff {e : FmPair NUM} : e.WordsFlushed ↔
    e.regs.flushed = true ∧ e.phC.flushed = true ∧ e.phM.flushed = true ∧ e.fbz.flushed = true ∧
      e.env.flushed = true :=
  ⟨fun h => ⟨h.regs, h.phC, h.phM, h.fbz, h.env⟩,
    fun ⟨hregs, hphC, hphM, hfbz, henv⟩ => ⟨hregs, hphC, hphM, hfbz, henv⟩⟩

theorem FmPair.WordsFlushed.reset {e : FmPair NUM} (h : e.WordsFlushed) : (e.reset Config.reference).WordsFlushed :=
  { h with phC := zero_flushed, phM := zero_flushed, fbz := zero_flushed, env := zero_flushed }

/-- The envelope is flushed where it is struck anew and where it decays (R284). -/
theorem FmPair.envNext_flushed (e : FmPair NUM) : (e.envNext Config.reference).flushed = true := by
  unfold FmPair.envNext
  split <;> exact reference_ftz_flushed _

theorem FmPair.WordsFlushed.produce {e : FmPair NUM} (h : e.WordsFlushed) :
    (e.produce Config.reference).2.WordsFlushed where
  regs := h.regs
  phC := phaseNext_flushed _ _
  phM := phaseNext_flushed _ _
  fbz := reference_ftz_flushed _
  env := e.envNext_flushed

/-- The words of E7 are flushed (R46). -/
structure FormantFilter.WordsFlushed (e : FormantFilter NUM) : Prop where
  regs : e.regs.flushed = true
  ph : e.ph.flushed = true
  ic1 : e.ic1.flushed = true
  ic2 : e.ic2.flushed = true

theorem FormantFilter.wordsFlushed_iff {e : FormantFilter NUM} : e.WordsFlushed ↔
    e.regs.flushed = true ∧ e.ph.flushed = true ∧ e.ic1.flushed = true ∧ e.ic2.flushed = true :=
  ⟨fun h => ⟨h.regs, h.ph, h.ic1, h.ic2⟩, fun ⟨hregs, hph, hic1, hic2⟩ => ⟨hregs, hph, hic1, hic2⟩⟩

theorem FormantFilter.WordsFlushed.reset {e : FormantFilter NUM} (h : e.WordsFlushed) :
    (e.reset Config.reference).WordsFlushed :=
  { h with ph := zero_flushed, ic1 := fill_zero_flushed 3, ic2 := fill_zero_flushed 3 }

/-- Both states a resonator stores are flushed (R295). -/
theorem FormantFilter.WordsFlushed.produce {e : FormantFilter NUM} (h : e.WordsFlushed) :
    (e.produce Config.reference).2.WordsFlushed where
  regs := h.regs
  ph := phaseNext_flushed _ _
  ic1 := bankMap_flushed _ _ fun _ _ => reference_ftz_flushed _
  ic2 := bankMap_flushed _ _ fun _ _ => reference_ftz_flushed _

/-- The words of E8 are flushed (R47). -/
structure AdditiveBank.WordsFlushed (e : AdditiveBank NUM) : Prop where
  regs : e.regs.flushed = true
  ph : e.ph.flushed = true
  det : e.det.flushed = true

theorem AdditiveBank.wordsFlushed_iff {e : AdditiveBank NUM} : e.WordsFlushed ↔
    e.regs.flushed = true ∧ e.ph.flushed = true ∧ e.det.flushed = true :=
  ⟨fun h => ⟨h.regs, h.ph, h.det⟩, fun ⟨hregs, hph, hdet⟩ => ⟨hregs, hph, hdet⟩⟩

/-- The reset draws the phases and the detunes and stores them flushed (R251). -/
theorem AdditiveBank.WordsFlushed.reset {e : AdditiveBank NUM} (h : e.WordsFlushed) :
    (e.reset Config.reference).WordsFlushed where
  regs := h.regs
  ph := drawPartialPhases_all _ _ _ _ fun _ => reference_ftz_flushed _
  det := drawDetunes_all _ _ _ _ fun _ => reference_ftz_flushed _

theorem AdditiveBank.WordsFlushed.produce {e : AdditiveBank NUM} (h : e.WordsFlushed) :
    (e.produce Config.reference).2.WordsFlushed where
  regs := h.regs
  ph := bankMap_flushed _ _ fun _ _ => phaseNext_flushed _ _
  det := h.det

/-- The words of E9 are flushed (R48). -/
structure ChordStack.WordsFlushed (e : ChordStack NUM) : Prop where
  regs : e.regs.flushed = true
  ph : e.ph.flushed = true

theorem ChordStack.wordsFlushed_iff {e : ChordStack NUM} : e.WordsFlushed ↔
    e.regs.flushed = true ∧ e.ph.flushed = true :=
  ⟨fun h => ⟨h.regs, h.ph⟩, fun ⟨hregs, hph⟩ => ⟨hregs, hph⟩⟩

theorem ChordStack.WordsFlushed.reset {e : ChordStack NUM} (h : e.WordsFlushed) :
    (e.reset Config.reference).WordsFlushed :=
  { h with ph := fill_zero_flushed 4 }

theorem ChordStack.WordsFlushed.produce {e : ChordStack NUM} (h : e.WordsFlushed) :
    (e.produce Config.reference).2.WordsFlushed where
  regs := h.regs
  ph := bankMap_flushed _ _ fun _ _ => phaseNext_flushed _ _

/-- The words of E10 are flushed (R49). -/
structure PluckedString.WordsFlushed (e : PluckedString NUM) : Prop where
  regs : e.regs.flushed = true
  bufA : Memory.flushed e.bufA = true
  bufB : Memory.flushed e.bufB = true
  lpA : e.lpA.flushed = true
  lpB : e.lpB.flushed = true
  apz : e.apz.flushed = true
  bow : e.bow.flushed = true

theorem PluckedString.wordsFlushed_iff {e : PluckedString NUM} : e.WordsFlushed ↔
    e.regs.flushed = true ∧ Memory.flushed e.bufA = true ∧ Memory.flushed e.bufB = true ∧ e.lpA.flushed = true ∧
      e.lpB.flushed = true ∧ e.apz.flushed = true ∧ e.bow.flushed = true :=
  ⟨fun h => ⟨h.regs, h.bufA, h.bufB, h.lpA, h.lpB, h.apz, h.bow⟩,
    fun ⟨hregs, hbufA, hbufB, hlpA, hlpB, hapz, hbow⟩ => ⟨hregs, hbufA, hbufB, hlpA, hlpB, hapz, hbow⟩⟩

theorem PluckedString.WordsFlushed.reset {e : PluckedString NUM} (h : e.WordsFlushed) :
    (e.reset Config.reference).WordsFlushed :=
  { h with bufA := memory_nil_flushed, bufB := memory_nil_flushed, lpA := zero_flushed, lpB := zero_flushed,
           apz := zero_flushed, bow := zero_flushed }

theorem PluckedString.WordsFlushed.produce {e : PluckedString NUM} (h : e.WordsFlushed) :
    (e.produce Config.reference).2.WordsFlushed where
  regs := h.regs
  bufA := memWrite_flushed _ _ _ h.bufA
  bufB := memWrite_flushed _ _ _ h.bufB
  lpA := reference_ftz_flushed _
  lpB := reference_ftz_flushed _
  apz := reference_ftz_flushed _
  bow := reference_ftz_flushed _

/-- The words of E11 are flushed (R50). -/
structure PwmOsc.WordsFlushed (e : PwmOsc NUM) : Prop where
  regs : e.regs.flushed = true
  ch : ∀ c, (stereoGet e.ch c).flushed = true

theorem PwmOsc.wordsFlushed_iff {e : PwmOsc NUM} : e.WordsFlushed ↔
    e.regs.flushed = true ∧ (∀ c, (stereoGet e.ch c).flushed = true) :=
  ⟨fun h => ⟨h.regs, h.ch⟩, fun ⟨hregs, hch⟩ => ⟨hregs, hch⟩⟩

theorem PwmChannel.flushed_iff {u : PwmChannel NUM} : u.flushed = true ↔
    u.ph.flushed = true ∧ u.drift.flushed = true ∧ u.target.flushed = true ∧ u.dcx.flushed = true ∧
      u.dcy.flushed = true := by
  simp only [PwmChannel.flushed, Bool.and_eq_true, and_assoc]

theorem PwmOsc.WordsFlushed.reset {e : PwmOsc NUM} (h : e.WordsFlushed) : (e.reset Config.reference).WordsFlushed :=
  have hclear : (PwmChannel.clear Config.reference).flushed = true :=
    PwmChannel.flushed_iff.2 ⟨zero_flushed, zero_flushed, zero_flushed, zero_flushed, zero_flushed⟩
  { h with ch := fun c => by cases c <;> exact hclear }

/-- A drift target is drawn and stored flushed, or stays (R334). -/
theorem PwmOsc.WordsFlushed.targetNext_flushed {e : PwmOsc NUM} (h : e.WordsFlushed) (draws : Nat → NUM) (c : Chan) :
    (e.targetNext Config.reference draws c).flushed = true := by
  unfold PwmOsc.targetNext
  split
  · cases c <;> exact reference_ftz_flushed _
  · obtain ⟨-, -, htarget, -, -⟩ := PwmChannel.flushed_iff.1 (h.ch c)
    exact htarget

theorem PwmOsc.WordsFlushed.channelNext_flushed {e : PwmOsc NUM} (h : e.WordsFlushed) (draws : Nat → NUM) (c : Chan) :
    (e.channelNext Config.reference draws c).flushed = true :=
  PwmChannel.flushed_iff.2 ⟨phaseNext_flushed _ _, reference_ftz_flushed _, h.targetNext_flushed draws c,
    reference_ftz_flushed _, reference_ftz_flushed _⟩

theorem PwmOsc.WordsFlushed.produce {e : PwmOsc NUM} (h : e.WordsFlushed) :
    (e.produce Config.reference).2.WordsFlushed where
  regs := h.regs
  ch c := by cases c <;> exact h.channelNext_flushed _ _

/-! ## The modulators (R351 to R387) -/

/-- The words of ADSR are flushed (R51). -/
structure Adsr.WordsFlushed (u : Adsr NUM) : Prop where
  level : u.level.flushed = true
  sr : u.sr.flushed = true
  a : u.a.flushed = true
  d : u.d.flushed = true
  s : u.s.flushed = true
  r : u.r.flushed = true

theorem Adsr.wordsFlushed_iff {u : Adsr NUM} : u.WordsFlushed ↔
    u.level.flushed = true ∧ u.sr.flushed = true ∧ u.a.flushed = true ∧ u.d.flushed = true ∧ u.s.flushed = true ∧
      u.r.flushed = true :=
  ⟨fun h => ⟨h.level, h.sr, h.a, h.d, h.s, h.r⟩, fun ⟨hlevel, hsr, ha, hd, hs, hr⟩ => ⟨hlevel, hsr, ha, hd, hs, hr⟩⟩

section
variable {u : Adsr NUM} (h : u.WordsFlushed) (v : NUM)
include h

theorem Adsr.WordsFlushed.reset : (u.reset Config.reference).WordsFlushed := { h with level := zero_flushed }

theorem Adsr.WordsFlushed.setSr : (u.setSr Config.reference v).WordsFlushed := by
  unfold Adsr.setSr
  split
  · exact { h with sr := reference_ftz_flushed _ }
  · exact h

theorem Adsr.WordsFlushed.setAttack : (u.setAttack Config.reference v).WordsFlushed :=
  { h with a := reference_ftz_flushed _ }

theorem Adsr.WordsFlushed.setDecay : (u.setDecay Config.reference v).WordsFlushed :=
  { h with d := reference_ftz_flushed _ }

theorem Adsr.WordsFlushed.setSustain : (u.setSustain Config.reference v).WordsFlushed :=
  { h with s := reference_ftz_flushed _ }

theorem Adsr.WordsFlushed.setRelease : (u.setRelease Config.reference v).WordsFlushed :=
  { h with r := reference_ftz_flushed _ }

theorem Adsr.WordsFlushed.gateOn : u.gateOn.WordsFlushed := { h with }

theorem Adsr.WordsFlushed.gateOff : u.gateOff.WordsFlushed := { h with }

/-- `process` flushes the level it clamps and leaves the other words (R358). -/
theorem Adsr.WordsFlushed.process : (u.process Config.reference).WordsFlushed where
  level := adsr_process_flushed u
  sr := by rw [Adsr.process_sr]; exact h.sr
  a := by rw [Adsr.process_a]; exact h.a
  d := by rw [Adsr.process_d]; exact h.d
  s := by rw [Adsr.process_s]; exact h.s
  r := by rw [Adsr.process_r]; exact h.r

end

/-- The words of AD are flushed (R52). -/
structure Ad.WordsFlushed (u : Ad NUM) : Prop where
  level : u.level.flushed = true
  sr : u.sr.flushed = true
  a : u.a.flushed = true
  d : u.d.flushed = true

theorem Ad.wordsFlushed_iff {u : Ad NUM} : u.WordsFlushed ↔
    u.level.flushed = true ∧ u.sr.flushed = true ∧ u.a.flushed = true ∧ u.d.flushed = true :=
  ⟨fun h => ⟨h.level, h.sr, h.a, h.d⟩, fun ⟨hlevel, hsr, ha, hd⟩ => ⟨hlevel, hsr, ha, hd⟩⟩

section
variable {u : Ad NUM} (h : u.WordsFlushed) (v : NUM)
include h

theorem Ad.WordsFlushed.reset : (u.reset Config.reference).WordsFlushed := { h with level := zero_flushed }

theorem Ad.WordsFlushed.setSr : (u.setSr Config.reference v).WordsFlushed := by
  unfold Ad.setSr
  split
  · exact { h with sr := reference_ftz_flushed _ }
  · exact h

theorem Ad.WordsFlushed.setAttack : (u.setAttack Config.reference v).WordsFlushed :=
  { h with a := reference_ftz_flushed _ }

theorem Ad.WordsFlushed.setDecay : (u.setDecay Config.reference v).WordsFlushed :=
  { h with d := reference_ftz_flushed _ }

theorem Ad.WordsFlushed.gateOn : u.gateOn.WordsFlushed := { h with }

theorem Ad.WordsFlushed.gateOff : (u.gateOff Config.reference).WordsFlushed := { h with level := zero_flushed }

/-- `process` flushes the level it clamps and leaves the other words (R371). -/
theorem Ad.WordsFlushed.process : (u.process Config.reference).WordsFlushed where
  level := ad_process_flushed u
  sr := by rw [Ad.process_sr]; exact h.sr
  a := by rw [Ad.process_a]; exact h.a
  d := by rw [Ad.process_d]; exact h.d

end

/-- The words of LFO are flushed (R53). -/
structure Lfo.WordsFlushed (u : Lfo NUM) : Prop where
  ph : u.ph.flushed = true
  rnd : u.rnd.flushed = true
  sr : u.sr.flushed = true
  freq : u.freq.flushed = true
  variation : u.variation.flushed = true

theorem Lfo.wordsFlushed_iff {u : Lfo NUM} : u.WordsFlushed ↔
    u.ph.flushed = true ∧ u.rnd.flushed = true ∧ u.sr.flushed = true ∧ u.freq.flushed = true ∧
      u.variation.flushed = true :=
  ⟨fun h => ⟨h.ph, h.rnd, h.sr, h.freq, h.variation⟩,
    fun ⟨hph, hrnd, hsr, hfreq, hvariation⟩ => ⟨hph, hrnd, hsr, hfreq, hvariation⟩⟩

section
variable {u : Lfo NUM} (h : u.WordsFlushed) (v : NUM)
include h

theorem Lfo.WordsFlushed.reset : (u.reset Config.reference).WordsFlushed :=
  { h with ph := zero_flushed, rnd := zero_flushed }

theorem Lfo.WordsFlushed.setSr : (u.setSr Config.reference v).WordsFlushed := by
  unfold Lfo.setSr
  split
  · exact { h with sr := reference_ftz_flushed _ }
  · exact h

theorem Lfo.WordsFlushed.setFreq : (u.setFreq Config.reference v).WordsFlushed :=
  { h with freq := reference_ftz_flushed _ }

theorem Lfo.WordsFlushed.setWave : (u.setWave Config.reference v).WordsFlushed := { h with }

theorem Lfo.WordsFlushed.setVar : (u.setVar Config.reference v).WordsFlushed :=
  { h with variation := reference_ftz_flushed _ }

/-- The phase is stored flushed, and so is the value drawn at a wrap (R384). -/
theorem Lfo.WordsFlushed.process : (u.process Config.reference).WordsFlushed := by
  unfold Lfo.process
  dsimp only
  split
  · exact { h with ph := reference_ftz_flushed _, rnd := reference_ftz_flushed _ }
  · exact { h with ph := reference_ftz_flushed _ }

end

/-! ## The filter (R403 to R409) -/

/-- The words of FLT are flushed (R54). -/
structure Ladder.WordsFlushed (u : Ladder NUM) : Prop where
  s : ∀ c, (stereoGet u.s c).flushed = true
  sr : u.sr.flushed = true
  fc : u.fc.flushed = true
  res : u.res.flushed = true
  wet : u.wet.flushed = true

theorem Ladder.wordsFlushed_iff {u : Ladder NUM} : u.WordsFlushed ↔
    (∀ c, (stereoGet u.s c).flushed = true) ∧ u.sr.flushed = true ∧ u.fc.flushed = true ∧ u.res.flushed = true ∧
      u.wet.flushed = true :=
  ⟨fun h => ⟨h.s, h.sr, h.fc, h.res, h.wet⟩, fun ⟨hs, hsr, hfc, hres, hwet⟩ => ⟨hs, hsr, hfc, hres, hwet⟩⟩

/-- Every stage stores its state flushed (R408). -/
theorem ladderStates_flushed (g : NUM) (l : List NUM) (y : NUM) :
    (ladderStates Config.reference g l y).all NUM.flushed = true := by
  induction l generalizing y with
  | nil => rfl
  | cons s t ih => simp only [ladderStates, List.all_cons, reference_ftz_flushed, ih, Bool.and_self]

section
variable {u : Ladder NUM} (h : u.WordsFlushed) (v : NUM)
include h

theorem Ladder.WordsFlushed.reset : (u.reset Config.reference).WordsFlushed :=
  { h with s := fun c => by cases c <;> exact fill_zero_flushed 4 }

theorem Ladder.WordsFlushed.setSr : (u.setSr Config.reference v).WordsFlushed := by
  unfold Ladder.setSr
  split
  · exact { h with sr := reference_ftz_flushed _, fc := reference_ftz_flushed _ }
  · exact h

theorem Ladder.WordsFlushed.setCutoff : (u.setCutoff Config.reference v).WordsFlushed :=
  { h with fc := reference_ftz_flushed _ }

theorem Ladder.WordsFlushed.setRes : (u.setRes Config.reference v).WordsFlushed :=
  { h with res := reference_ftz_flushed _ }

theorem Ladder.WordsFlushed.setWet : (u.setWet Config.reference v).WordsFlushed :=
  { h with wet := reference_ftz_flushed _ }

theorem Ladder.WordsFlushed.process (c : Chan) : (u.process Config.reference c v).WordsFlushed :=
  { h with s := forall_stereoSet (P := fun b : Bank 4 NUM => b.flushed = true) h.s c (ladderStates_flushed _ _ _) }

end

/-! ## The effects (R423 to R426, R443 to R448, R463 to R467) -/

/-- The words of one channel of DLY are flushed. -/
structure DelayChannel.WordsFlushed (u : DelayChannel NUM) : Prop where
  buf : Memory.flushed u.buf = true
  lp : u.lp.flushed = true

theorem DelayChannel.wordsFlushed_iff {u : DelayChannel NUM} : u.WordsFlushed ↔
    Memory.flushed u.buf = true ∧ u.lp.flushed = true :=
  ⟨fun h => ⟨h.buf, h.lp⟩, fun ⟨hbuf, hlp⟩ => ⟨hbuf, hlp⟩⟩

/-- The words of DLY are flushed (R55). -/
structure Delay.WordsFlushed (u : Delay NUM) : Prop where
  ch : ∀ c, (stereoGet u.ch c).WordsFlushed
  amount : u.amount.flushed = true

theorem Delay.wordsFlushed_iff {u : Delay NUM} : u.WordsFlushed ↔
    (∀ c, (stereoGet u.ch c).WordsFlushed) ∧ u.amount.flushed = true :=
  ⟨fun h => ⟨h.ch, h.amount⟩, fun ⟨hch, hamount⟩ => ⟨hch, hamount⟩⟩

section
variable {u : Delay NUM} (h : u.WordsFlushed) (v : NUM)
include h

theorem Delay.WordsFlushed.reset : (u.reset Config.reference).WordsFlushed :=
  { h with ch := fun c => by cases c <;> exact ⟨memory_nil_flushed, zero_flushed⟩ }

theorem Delay.WordsFlushed.setAmount : (u.setAmount Config.reference v).WordsFlushed :=
  { h with amount := reference_ftz_flushed _ }

/-- One sample writes one buffer word and the low-pass state, both flushed (R425). -/
theorem Delay.WordsFlushed.process (c : Chan) : (u.process Config.reference c v).WordsFlushed :=
  { h with ch := forall_stereoSet h.ch c ⟨memWrite_flushed _ _ _ (h.ch c).buf, reference_ftz_flushed _⟩ }

end

/-- The words of one channel of CHO are flushed. -/
structure ChorusChannel.WordsFlushed (u : ChorusChannel NUM) : Prop where
  buf : Memory.flushed u.buf = true
  phi : u.phi.flushed = true

theorem ChorusChannel.wordsFlushed_iff {u : ChorusChannel NUM} : u.WordsFlushed ↔
    Memory.flushed u.buf = true ∧ u.phi.flushed = true :=
  ⟨fun h => ⟨h.buf, h.phi⟩, fun ⟨hbuf, hphi⟩ => ⟨hbuf, hphi⟩⟩

/-- The words of CHO are flushed (R56). -/
structure Chorus.WordsFlushed (u : Chorus NUM) : Prop where
  ch : ∀ c, (stereoGet u.ch c).WordsFlushed
  amount : u.amount.flushed = true

theorem Chorus.wordsFlushed_iff {u : Chorus NUM} : u.WordsFlushed ↔
    (∀ c, (stereoGet u.ch c).WordsFlushed) ∧ u.amount.flushed = true :=
  ⟨fun h => ⟨h.ch, h.amount⟩, fun ⟨hch, hamount⟩ => ⟨hch, hamount⟩⟩

/-- The start phases `CHO_PHASE0` are no denormals (R56). -/
theorem ChorusChannel.clear_flushed : (ChorusChannel.clear Config.reference).WordsFlushed where
  buf := memory_nil_flushed
  phi := by decide +kernel

section
variable {u : Chorus NUM} (h : u.WordsFlushed) (v : NUM)
include h

theorem Chorus.WordsFlushed.reset : (u.reset Config.reference).WordsFlushed :=
  { h with ch := fun c => by cases c <;> exact ChorusChannel.clear_flushed }

theorem Chorus.WordsFlushed.setAmount : (u.setAmount Config.reference v).WordsFlushed :=
  { h with amount := reference_ftz_flushed _ }

/-- One sample writes one buffer word and the three voice phases, all flushed (R447). -/
theorem Chorus.WordsFlushed.process (c : Chan) : (u.process Config.reference c v).WordsFlushed :=
  { h with
    ch := forall_stereoSet h.ch c
      ⟨memWrite_flushed _ _ _ (h.ch c).buf, bankMap_flushed _ _ fun _ _ => reference_ftz_flushed _⟩ }

end

/-- The words of REV are flushed (R57). -/
structure Reverb.WordsFlushed (u : Reverb NUM) : Prop where
  ch : ∀ c, (stereoGet u.ch c).flushed = true
  amount : u.amount.flushed = true

theorem Reverb.wordsFlushed_iff {u : Reverb NUM} : u.WordsFlushed ↔
    (∀ c, (stereoGet u.ch c).flushed = true) ∧ u.amount.flushed = true :=
  ⟨fun h => ⟨h.ch, h.amount⟩, fun ⟨hch, hamount⟩ => ⟨hch, hamount⟩⟩

theorem ReverbChannel.flushed_iff {u : ReverbChannel NUM} : u.flushed = true ↔
    Memory.flushed u.comb0.buf = true ∧ Memory.flushed u.comb1.buf = true ∧ Memory.flushed u.comb2.buf = true ∧
      Memory.flushed u.comb3.buf = true ∧ Memory.flushed u.ap0.buf = true ∧ Memory.flushed u.ap1.buf = true := by
  simp only [ReverbChannel.flushed, Bool.and_eq_true, and_assoc]

/-- A comb and an allpass write their line by `push` (R464, R465). -/
theorem Line.push_flushed {l : Line NUM} (h : Memory.flushed l.buf = true) (len : Nat) (v : NUM) :
    Memory.flushed (l.push Config.reference len v).buf = true := memWrite_flushed _ _ _ h

section
variable {u : Reverb NUM} (h : u.WordsFlushed) (v : NUM)
include h

theorem Reverb.WordsFlushed.reset : u.reset.WordsFlushed := { h with ch := fun c => by cases c <;> rfl }

theorem Reverb.WordsFlushed.setAmount : (u.setAmount Config.reference v).WordsFlushed :=
  { h with amount := reference_ftz_flushed _ }

theorem Reverb.WordsFlushed.process (c : Chan) : (u.process Config.reference c v).WordsFlushed := by
  obtain ⟨hc0, hc1, hc2, hc3, ha0, ha1⟩ := ReverbChannel.flushed_iff.1 (h.ch c)
  exact { h with
    ch := forall_stereoSet (P := fun ch : ReverbChannel NUM => ch.flushed = true) h.ch c <|
      ReverbChannel.flushed_iff.2
        ⟨Line.push_flushed hc0 _ _, Line.push_flushed hc1 _ _, Line.push_flushed hc2 _ _, Line.push_flushed hc3 _ _,
          Line.push_flushed ha0 _ _, Line.push_flushed ha1 _ _⟩ }

end

/-! ## The state -/

/-- The words of PIPE but the parameter registers are flushed (R33, R34, log 9). -/
structure Pipe.WordsFlushed (p : Pipe NUM) : Prop where
  noteFreq : p.noteFreq.flushed = true
  adLevel : p.adLevel.flushed = true
  pl : p.pl.flushed = true

theorem Pipe.wordsFlushed_iff {p : Pipe NUM} : p.WordsFlushed ↔
    p.noteFreq.flushed = true ∧ p.adLevel.flushed = true ∧ p.pl.flushed = true :=
  ⟨fun h => ⟨h.noteFreq, h.adLevel, h.pl⟩, fun ⟨hnoteFreq, hadLevel, hpl⟩ => ⟨hnoteFreq, hadLevel, hpl⟩⟩

/-- The invariant: the words of every unit are flushed. -/
structure State.Of.WordsFlushed (s : State) : Prop where
  e0 : s.e0.WordsFlushed
  e1 : s.e1.WordsFlushed
  e2 : s.e2.WordsFlushed
  e3 : s.e3.WordsFlushed
  e4 : s.e4.WordsFlushed
  e5 : s.e5.WordsFlushed
  e6 : s.e6.WordsFlushed
  e7 : s.e7.WordsFlushed
  e8 : s.e8.WordsFlushed
  e9 : s.e9.WordsFlushed
  e10 : s.e10.WordsFlushed
  e11 : s.e11.WordsFlushed
  adsr : s.adsr.WordsFlushed
  ad : s.ad.WordsFlushed
  lfo : s.lfo.WordsFlushed
  flt : s.flt.WordsFlushed
  dly : s.dly.WordsFlushed
  cho : s.cho.WordsFlushed
  rev : s.rev.WordsFlushed
  pipe : s.pipe.WordsFlushed

theorem State.Of.wordsFlushed_iff {s : State} : s.WordsFlushed ↔
    s.e0.WordsFlushed ∧ s.e1.WordsFlushed ∧ s.e2.WordsFlushed ∧ s.e3.WordsFlushed ∧ s.e4.WordsFlushed ∧
      s.e5.WordsFlushed ∧ s.e6.WordsFlushed ∧ s.e7.WordsFlushed ∧ s.e8.WordsFlushed ∧ s.e9.WordsFlushed ∧
      s.e10.WordsFlushed ∧ s.e11.WordsFlushed ∧ s.adsr.WordsFlushed ∧ s.ad.WordsFlushed ∧ s.lfo.WordsFlushed ∧
      s.flt.WordsFlushed ∧ s.dly.WordsFlushed ∧ s.cho.WordsFlushed ∧ s.rev.WordsFlushed ∧ s.pipe.WordsFlushed :=
  ⟨fun h => ⟨h.e0, h.e1, h.e2, h.e3, h.e4, h.e5, h.e6, h.e7, h.e8, h.e9, h.e10, h.e11, h.adsr, h.ad, h.lfo,
      h.flt, h.dly, h.cho, h.rev, h.pipe⟩,
    fun ⟨h0, h1, h2, h3, h4, h5, h6, h7, h8, h9, h10, h11, hadsr, had, hlfo, hflt, hdly, hcho, hrev, hpipe⟩ =>
      ⟨h0, h1, h2, h3, h4, h5, h6, h7, h8, h9, h10, h11, hadsr, had, hlfo, hflt, hdly, hcho, hrev, hpipe⟩⟩

/-- The flush of the state, taken apart unit by unit. -/
theorem State.Of.flushed_iff {s : State} : s.flushed = true ↔ s.WordsFlushed := by
  simp only [State.Of.flushed, State.Of.enginesFlushed, State.Of.unitsFlushed, Bool.and_eq_true, and_assoc,
    State.Of.wordsFlushed_iff, SineOsc.wordsFlushed_iff, TriangleOsc.wordsFlushed_iff, SquareOsc.wordsFlushed_iff,
    SawOsc.wordsFlushed_iff, SupersawBank.wordsFlushed_iff, VirtualAnalog.wordsFlushed_iff, FmPair.wordsFlushed_iff,
    FormantFilter.wordsFlushed_iff, AdditiveBank.wordsFlushed_iff, ChordStack.wordsFlushed_iff,
    PluckedString.wordsFlushed_iff, PwmOsc.wordsFlushed_iff, Adsr.wordsFlushed_iff, Ad.wordsFlushed_iff,
    Lfo.wordsFlushed_iff, Ladder.wordsFlushed_iff, DelayChannel.wordsFlushed_iff, Delay.wordsFlushed_iff,
    ChorusChannel.wordsFlushed_iff, Chorus.wordsFlushed_iff, Reverb.wordsFlushed_iff, Pipe.wordsFlushed_iff,
    Chan.forall_iff, stereoGet_left, stereoGet_right]

/-- The ports hold no `NUM` word of the state (R110). -/
theorem State.Of.WordsFlushed.respond {s : State} (h : s.WordsFlushed) (hi lo : BitVec 32) :
    (s.respond hi lo).WordsFlushed := { h with }

theorem State.Of.WordsFlushed.emit {s : State} (h : s.WordsFlushed) (y : Stereo NUM) : (s.emit y).WordsFlushed :=
  { h with }

theorem State.Of.WordsFlushed.withCmds {s : State} (h : s.WordsFlushed) (rest : List CommandWord) :
    ({ s with cmds := rest } : State).WordsFlushed := { h with }

theorem done_flushed {s t : State} (he : done s = .next t) (h : s.WordsFlushed) : t.WordsFlushed := by
  rw [done_eq_next.1 he]
  exact h.respond _ _

theorem doneWith_flushed {s t : State} {y : NUM} (he : doneWith s y = .next t) (h : s.WordsFlushed) :
    t.WordsFlushed := by
  rw [doneWith_eq_next.1 he]
  exact h.respond _ _

theorem doneWithPair_flushed {s t : State} {y : Stereo NUM} (he : doneWithPair s y = .next t) (h : s.WordsFlushed) :
    t.WordsFlushed := by
  rw [doneWithPair_eq_next.1 he]
  exact h.respond _ _

/-! ## The pipeline (R484 to R508, R570) -/

/-- The latch stores every word flushed (R490, log 11). -/
theorem latchOf_flushed (p : Bank 19 NUM) : (latchOf Config.reference p).flushed = true := by
  simp only [Latch.flushed, latchOf, reference_ftz_flushed, Bool.and_self]

section
variable {s : State} (h : s.WordsFlushed)
include h

theorem State.Of.WordsFlushed.programEngine (freq harm timb morph : NUM) (k : Engine) :
    (s.programEngine Config.reference freq harm timb morph k).WordsFlushed := by
  cases k with
  | sine => exact { h with e0 := { h.e0 with regs := EngineRegs.program_flushed h.e0.regs .. } }
  | triangle => exact { h with e1 := { h.e1 with regs := EngineRegs.program_flushed h.e1.regs .. } }
  | square => exact { h with e2 := { h.e2 with regs := EngineRegs.program_flushed h.e2.regs .. } }
  | saw => exact { h with e3 := { h.e3 with regs := EngineRegs.program_flushed h.e3.regs .. } }
  | supersaw => exact { h with e4 := { h.e4 with regs := EngineRegs.program_flushed h.e4.regs .. } }
  | virtualAnalog => exact { h with e5 := { h.e5 with regs := EngineRegs.program_flushed h.e5.regs .. } }
  | fm => exact { h with e6 := { h.e6 with regs := EngineRegs.program_flushed h.e6.regs .. } }
  | formant => exact { h with e7 := { h.e7 with regs := EngineRegs.program_flushed h.e7.regs .. } }
  | additive => exact { h with e8 := { h.e8 with regs := EngineRegs.program_flushed h.e8.regs .. } }
  | chord => exact { h with e9 := { h.e9 with regs := EngineRegs.program_flushed h.e9.regs .. } }
  | pluckedString => exact { h with e10 := { h.e10 with regs := EngineRegs.program_flushed h.e10.regs .. } }
  | pwm => exact { h with e11 := { h.e11 with regs := EngineRegs.program_flushed h.e11.regs .. } }

theorem State.Of.WordsFlushed.engineAdvance (k : Engine) : (s.engineAdvance Config.reference k).WordsFlushed := by
  cases k with
  | sine => exact { h with e0 := h.e0.produce }
  | triangle => exact { h with e1 := h.e1.produce }
  | square => exact { h with e2 := h.e2.produce }
  | saw => exact { h with e3 := h.e3.produce }
  | supersaw => exact { h with e4 := h.e4.produce }
  | virtualAnalog => exact { h with e5 := h.e5.produce }
  | fm => exact { h with e6 := h.e6.produce }
  | formant => exact { h with e7 := h.e7.produce }
  | additive => exact { h with e8 := h.e8.produce }
  | chord => exact { h with e9 := h.e9.produce }
  | pluckedString => exact { h with e10 := h.e10.produce }
  | pwm => exact { h with e11 := h.e11.produce }

/-- In the reference configuration a note-on resets no engine (`RESET_ON_NOTE_ON`, R493). -/
theorem State.Of.WordsFlushed.noteOn (n : BitVec 7) : (s.noteOn Config.reference n).WordsFlushed :=
  { h with
    pipe := { h.pipe with noteFreq := reference_ftz_flushed _ }
    adsr := h.adsr.gateOn
    ad := h.ad.gateOn }

theorem State.Of.WordsFlushed.noteOff (n : BitVec 7) : (s.noteOff Config.reference n).WordsFlushed := by
  unfold State.Of.noteOff
  split
  · exact { h with pipe := { h.pipe with }, adsr := h.adsr.gateOff, ad := h.ad.gateOff }
  · exact h

theorem State.Of.WordsFlushed.latchParams : (s.latchParams Config.reference).WordsFlushed :=
  { h with pipe := { h.pipe with pl := latchOf_flushed _ } }

theorem State.Of.WordsFlushed.programUnits : (s.programUnits Config.reference).WordsFlushed :=
  { h with
    adsr := (((h.adsr.setAttack _).setDecay _).setSustain _).setRelease _
    ad := (h.ad.setAttack _).setDecay _
    lfo := ((h.lfo.setFreq _).setWave _).setVar _
    flt := ((h.flt.setCutoff _).setRes _).setWet _
    rev := h.rev.setAmount _
    dly := h.dly.setAmount _
    cho := h.cho.setAmount _ }

theorem State.Of.WordsFlushed.tickModulators : (s.tickModulators Config.reference).WordsFlushed :=
  { h with
    adsr := h.adsr.process
    ad := h.ad.process
    lfo := h.lfo.process
    pipe := { h.pipe with adLevel := reference_ftz_flushed _ } }

/-- In the reference configuration a new selection resets no engine (`RESET_ON_SELECT`, R503). -/
theorem State.Of.WordsFlushed.tickSelect : (s.tickSelect Config.reference).WordsFlushed := by
  simp only [State.Of.tickSelect, Config.reference_resetOnSelect, Bool.and_false, Bool.false_eq_true, ↓reduceIte]
  have hsel : ({ s with pipe := { s.pipe with selPrev := BitVec.ofNat 4 s.pipe.pl.sel.index } } : State).WordsFlushed :=
    { h with pipe := { h.pipe with } }
  exact hsel.programEngine ..

theorem State.Of.WordsFlushed.tickSilence (env : NUM) : (s.tickSilence Config.reference env).WordsFlushed := by
  unfold State.Of.tickSilence
  dsimp only
  split
  · exact { h with dly := h.dly.reset, cho := h.cho.reset, pipe := { h.pipe with } }
  · exact { h with pipe := { h.pipe with } }

theorem State.Of.WordsFlushed.tickEffects (x : Stereo NUM) : (s.tickEffects Config.reference x).WordsFlushed :=
  { h with
    flt := (h.flt.process _ .left).process _ .right
    dly := (h.dly.process _ .left).process _ .right
    cho := (h.cho.process _ .left).process _ .right
    rev := (h.rev.process _ .left).process _ .right }

/-- One sample tick (R500). -/
theorem State.Of.WordsFlushed.tick : (s.tick Config.reference).WordsFlushed := by
  have hsource : (s.tickSource Config.reference).WordsFlushed := h.tickModulators.tickSelect.engineAdvance _
  exact ((hsource.tickSilence _).tickEffects _).emit _

/-- The full reset writes 0, `SR`, 1, `FC_MIN` and the reset values of each unit (R570). -/
theorem State.Of.WordsFlushed.fullReset : (s.fullReset Config.reference).WordsFlushed where
  e0 := SineOsc.WordsFlushed.reset { h.e0 with regs := EngineRegs.powerOn_flushed 0 }
  e1 := TriangleOsc.WordsFlushed.reset { h.e1 with regs := EngineRegs.powerOn_flushed 1 }
  e2 := SquareOsc.WordsFlushed.reset { h.e2 with regs := EngineRegs.powerOn_flushed 2 }
  e3 := SawOsc.WordsFlushed.reset { h.e3 with regs := EngineRegs.powerOn_flushed 3 }
  e4 := SupersawBank.WordsFlushed.reset { h.e4 with regs := EngineRegs.powerOn_flushed 4 }
  e5 := VirtualAnalog.WordsFlushed.reset { h.e5 with regs := EngineRegs.powerOn_flushed 5 }
  e6 := FmPair.WordsFlushed.reset { h.e6 with regs := EngineRegs.powerOn_flushed 6 }
  e7 := FormantFilter.WordsFlushed.reset { h.e7 with regs := EngineRegs.powerOn_flushed 7 }
  e8 := AdditiveBank.WordsFlushed.reset { h.e8 with regs := EngineRegs.powerOn_flushed 8 }
  e9 := ChordStack.WordsFlushed.reset { h.e9 with regs := EngineRegs.powerOn_flushed 9 }
  e10 := PluckedString.WordsFlushed.reset { h.e10 with regs := EngineRegs.powerOn_flushed 10 }
  e11 := PwmOsc.WordsFlushed.reset { h.e11 with regs := EngineRegs.powerOn_flushed 11 }
  adsr := Adsr.WordsFlushed.reset
    { h.adsr with
      sr := reference_sr_flushed, a := zero_flushed, d := zero_flushed, s := zero_flushed, r := zero_flushed }
  ad := Ad.WordsFlushed.reset { h.ad with sr := reference_sr_flushed, a := zero_flushed, d := zero_flushed }
  lfo := Lfo.WordsFlushed.reset
    { h.lfo with sr := reference_sr_flushed, freq := zero_flushed, variation := zero_flushed }
  flt := Ladder.WordsFlushed.reset
    { h.flt with sr := reference_sr_flushed, fc := reference_fcMin_flushed, res := zero_flushed, wet := zero_flushed }
  dly := Delay.WordsFlushed.reset { h.dly with amount := zero_flushed }
  cho := Chorus.WordsFlushed.reset { h.cho with amount := zero_flushed }
  rev := Reverb.WordsFlushed.reset { h.rev with amount := zero_flushed }
  pipe := { h.pipe with noteFreq := zero_flushed, adLevel := zero_flushed }

end

theorem State.Of.WordsFlushed.runFrames {s : State} (h : s.WordsFlushed) (n : Nat) :
    (State.Of.runFrames Config.reference n s).WordsFlushed := by
  induction n generalizing s with
  | zero => exact h
  | succ n ih => exact ih h.tick

/-! ## The operations and the step -/

/-- Every operation keeps the words of every unit flushed. -/
theorem exec_flushed {i : Instr} {s t : State} (h : s.WordsFlushed) (he : exec i s = .next t) : t.WordsFlushed := by
  cases i with
  | e0Reset => exact done_flushed he { h with e0 := h.e0.reset }
  | e0SetSr v | e0SetFreq v | e0SetHarm v | e0SetTimb v | e0SetMorph v | e0SetLevel v =>
    exact done_flushed he { h with e0 := { h.e0 with regs := by simp [h.e0.regs] } }
  | e0Produce => exact doneWithPair_flushed he { h with e0 := h.e0.produce }
  | e1Reset => exact done_flushed he { h with e1 := h.e1.reset }
  | e1SetSr v | e1SetFreq v | e1SetHarm v | e1SetTimb v | e1SetMorph v | e1SetLevel v =>
    exact done_flushed he { h with e1 := { h.e1 with regs := by simp [h.e1.regs] } }
  | e1Produce => exact doneWithPair_flushed he { h with e1 := h.e1.produce }
  | e2Reset => exact done_flushed he { h with e2 := h.e2.reset }
  | e2SetSr v | e2SetFreq v | e2SetHarm v | e2SetTimb v | e2SetMorph v | e2SetLevel v =>
    exact done_flushed he { h with e2 := { h.e2 with regs := by simp [h.e2.regs] } }
  | e2Produce => exact doneWithPair_flushed he { h with e2 := h.e2.produce }
  | e3Reset => exact done_flushed he { h with e3 := h.e3.reset }
  | e3SetSr v | e3SetFreq v | e3SetHarm v | e3SetTimb v | e3SetMorph v | e3SetLevel v =>
    exact done_flushed he { h with e3 := { h.e3 with regs := by simp [h.e3.regs] } }
  | e3Produce => exact doneWithPair_flushed he { h with e3 := h.e3.produce }
  | e4Reset => exact done_flushed he { h with e4 := h.e4.reset }
  | e4SetSr v | e4SetFreq v | e4SetHarm v | e4SetTimb v | e4SetMorph v | e4SetLevel v =>
    exact done_flushed he { h with e4 := { h.e4 with regs := by simp [h.e4.regs] } }
  | e4Produce => exact doneWithPair_flushed he { h with e4 := h.e4.produce }
  | e5Reset => exact done_flushed he { h with e5 := h.e5.reset }
  | e5SetSr v | e5SetFreq v | e5SetHarm v | e5SetTimb v | e5SetMorph v | e5SetLevel v =>
    exact done_flushed he { h with e5 := { h.e5 with regs := by simp [h.e5.regs] } }
  | e5Produce => exact doneWithPair_flushed he { h with e5 := h.e5.produce }
  | e6Reset => exact done_flushed he { h with e6 := h.e6.reset }
  | e6SetSr v | e6SetFreq v | e6SetHarm v | e6SetTimb v | e6SetMorph v | e6SetLevel v =>
    exact done_flushed he { h with e6 := { h.e6 with regs := by simp [h.e6.regs] } }
  | e6Produce => exact doneWithPair_flushed he { h with e6 := h.e6.produce }
  | e7Reset => exact done_flushed he { h with e7 := h.e7.reset }
  | e7SetSr v | e7SetFreq v | e7SetHarm v | e7SetTimb v | e7SetMorph v | e7SetLevel v =>
    exact done_flushed he { h with e7 := { h.e7 with regs := by simp [h.e7.regs] } }
  | e7Produce => exact doneWithPair_flushed he { h with e7 := h.e7.produce }
  | e8Reset => exact done_flushed he { h with e8 := h.e8.reset }
  | e8SetSr v | e8SetFreq v | e8SetHarm v | e8SetTimb v | e8SetMorph v | e8SetLevel v =>
    exact done_flushed he { h with e8 := { h.e8 with regs := by simp [h.e8.regs] } }
  | e8Produce => exact doneWithPair_flushed he { h with e8 := h.e8.produce }
  | e9Reset => exact done_flushed he { h with e9 := h.e9.reset }
  | e9SetSr v | e9SetFreq v | e9SetHarm v | e9SetTimb v | e9SetMorph v | e9SetLevel v =>
    exact done_flushed he { h with e9 := { h.e9 with regs := by simp [h.e9.regs] } }
  | e9Produce => exact doneWithPair_flushed he { h with e9 := h.e9.produce }
  | e10Reset => exact done_flushed he { h with e10 := h.e10.reset }
  | e10SetSr v | e10SetFreq v | e10SetHarm v | e10SetTimb v | e10SetMorph v | e10SetLevel v =>
    exact done_flushed he { h with e10 := { h.e10 with regs := by simp [h.e10.regs] } }
  | e10Produce => exact doneWithPair_flushed he { h with e10 := h.e10.produce }
  | e11Reset => exact done_flushed he { h with e11 := h.e11.reset }
  | e11SetSr v | e11SetFreq v | e11SetHarm v | e11SetTimb v | e11SetMorph v | e11SetLevel v =>
    exact done_flushed he { h with e11 := { h.e11 with regs := by simp [h.e11.regs] } }
  | e11Produce => exact doneWithPair_flushed he { h with e11 := h.e11.produce }
  | adsrReset => exact done_flushed he { h with adsr := h.adsr.reset }
  | adsrSetSr v => exact done_flushed he { h with adsr := h.adsr.setSr _ }
  | adsrSetAttack v => exact done_flushed he { h with adsr := h.adsr.setAttack _ }
  | adsrSetDecay v => exact done_flushed he { h with adsr := h.adsr.setDecay _ }
  | adsrSetSustain v => exact done_flushed he { h with adsr := h.adsr.setSustain _ }
  | adsrSetRelease v => exact done_flushed he { h with adsr := h.adsr.setRelease _ }
  | adsrGateOn => exact done_flushed he { h with adsr := h.adsr.gateOn }
  | adsrGateOff => exact done_flushed he { h with adsr := h.adsr.gateOff }
  | adsrProcess => exact doneWith_flushed he { h with adsr := h.adsr.process }
  | adReset => exact done_flushed he { h with ad := h.ad.reset }
  | adSetSr v => exact done_flushed he { h with ad := h.ad.setSr _ }
  | adSetAttack v => exact done_flushed he { h with ad := h.ad.setAttack _ }
  | adSetDecay v => exact done_flushed he { h with ad := h.ad.setDecay _ }
  | adGateOn => exact done_flushed he { h with ad := h.ad.gateOn }
  | adGateOff => exact done_flushed he { h with ad := h.ad.gateOff }
  | adProcess => exact doneWith_flushed he { h with ad := h.ad.process }
  | lfoReset => exact done_flushed he { h with lfo := h.lfo.reset }
  | lfoSetSr v => exact done_flushed he { h with lfo := h.lfo.setSr _ }
  | lfoSetFreq v => exact done_flushed he { h with lfo := h.lfo.setFreq _ }
  | lfoProcess => exact doneWith_flushed he { h with lfo := h.lfo.process }
  | lfoSetWave v => exact done_flushed he { h with lfo := h.lfo.setWave _ }
  | lfoSetVar v => exact done_flushed he { h with lfo := h.lfo.setVar _ }
  | fltReset => exact done_flushed he { h with flt := h.flt.reset }
  | fltSetSr v => exact done_flushed he { h with flt := h.flt.setSr _ }
  | fltProcess c v => exact doneWith_flushed he { h with flt := h.flt.process _ _ }
  | fltSetCutoff v => exact done_flushed he { h with flt := h.flt.setCutoff _ }
  | fltSetRes v => exact done_flushed he { h with flt := h.flt.setRes _ }
  | fltSetWet v => exact done_flushed he { h with flt := h.flt.setWet _ }
  | dlyReset => exact done_flushed he { h with dly := h.dly.reset }
  | dlyProcess c v => exact doneWith_flushed he { h with dly := h.dly.process _ _ }
  | dlySetAmount v => exact done_flushed he { h with dly := h.dly.setAmount _ }
  | choReset => exact done_flushed he { h with cho := h.cho.reset }
  | choProcess c v => exact doneWith_flushed he { h with cho := h.cho.process _ _ }
  | choSetAmount v => exact done_flushed he { h with cho := h.cho.setAmount _ }
  | revReset => exact done_flushed he { h with rev := h.rev.reset }
  | revProcess c v => exact doneWith_flushed he { h with rev := h.rev.process _ _ }
  | revSetAmount v => exact done_flushed he { h with rev := h.rev.setAmount _ }
  | pipeFullReset => exact done_flushed he h.fullReset
  | pipeParamSet i v =>
    refine done_flushed he ?_
    split
    · exact { h with pipe := { h.pipe with } }
    · exact h
  | pipeParamGet i => exact doneWith_flushed he h
  | pipeNoteOn note vel =>
    refine done_flushed he ?_
    split
    · exact h.noteOff _
    · exact h.noteOn _
  | pipeNoteOff note => exact done_flushed he (h.noteOff _)
  | pipeProcessBlock n => exact done_flushed he (h.latchParams.programUnits.runFrames _)

/-- Settles O59: the flush of the state, unit by unit, is kept by every operation, and a step without an operation
writes nothing but the ports. The premise on `MAX_FRAMES` is not needed: any number of ticks keeps the flush. -/
theorem everyStepKeepsTheStateFlushed : Obligations.EveryStepKeepsTheStateFlushed := by
  intro M s t _ hs hstep
  rw [State.Of.flushed_iff] at hs ⊢
  rcases step_cases hstep with ⟨-, rfl⟩ | ⟨cw, rest, -, ⟨i, -, hexec⟩ | ⟨err, -, rfl⟩⟩
  · exact hs
  · exact exec_flushed (hs.withCmds rest) hexec
  · exact (hs.withCmds rest).respond _ _

end Sys2Proof.Machine

/-! What one operation can make of the state, said once: the operations of each unit as a relation on the unit (R30,
R150), the operation map read as a relation on the state (R113), and that whatever an operation does, a block of the
pipeline included, each unit goes through a sequence of its own operations (R60). The frames, the shape and the ranges
below are read off these. -/

namespace Sys2Proof.Machine

open Relation

variable {N : Type} {cfg : Config.Parameters N} {rates : Prop}

/-! ## The operations of a unit, as relations

`rates` says whether the sample rate may be set: `SET_SR` is the one operation that leaves a frequency above half the
rate (R153), and the full reset, which writes both, is apart from it. -/

/-- The operations on the control fields of an engine (R153 to R158) and their values after a full reset (R570). -/
inductive EngineRegs.Op (cfg : Config.Parameters N) (rates : Prop) (r : EngineRegs N) : EngineRegs N → Prop
  | setSr (h : rates) (v : N) : Op cfg rates r (r.setSr cfg v)
  | setFreq (v : N) : Op cfg rates r (r.setFreq cfg v)
  | setHarm (v : N) : Op cfg rates r (r.setHarm cfg v)
  | setTimb (v : N) : Op cfg rates r (r.setTimb cfg v)
  | setMorph (v : N) : Op cfg rates r (r.setMorph cfg v)
  | setLevel (v : N) : Op cfg rates r (r.setLevel cfg v)
  | powerOn (k : Nat) : Op cfg rates r (EngineRegs.powerOn cfg k)

/-- What the operations of R150 act on: the control fields of an engine, its reset and its state after `PRODUCE`. -/
structure EngineMeaning (E N : Type) where
  regs : E → EngineRegs N
  withRegs : E → EngineRegs N → E
  reset : E → E
  produce : E → E

/-- The operations of one engine (R150). -/
inductive EngineMeaning.Op {E : Type} (m : EngineMeaning E N) (cfg : Config.Parameters N) (rates : Prop) (e : E) :
    E → Prop
  | regs {r : EngineRegs N} (h : EngineRegs.Op cfg rates (m.regs e) r) : Op m cfg rates e (m.withRegs e r)
  | reset : Op m cfg rates e (m.reset e)
  | produce : Op m cfg rates e (m.produce e)

/-- Of the control fields, reset and `PRODUCE` move the seed alone (R163, R168, R191); the rest is what a field of a
record does. -/
structure EngineMeaning.Lawful {E : Type} (m : EngineMeaning E N) : Prop where
  get : ∀ e r, m.regs (m.withRegs e r) = r
  set : ∀ e r r', m.withRegs (m.withRegs e r) r' = m.withRegs e r'
  self : ∀ e, m.withRegs e (m.regs e) = e
  reset : ∀ e, ∃ seed, m.regs (m.reset e) = { m.regs e with seed := seed }
  produce : ∀ e, ∃ seed, m.regs (m.produce e) = { m.regs e with seed := seed }

/-- Writes to the control fields of an engine are operations of the engine. -/
theorem EngineMeaning.ops_of_regs {E : Type} {m : EngineMeaning E N} (hm : m.Lawful) {e : E} {r : EngineRegs N}
    (h : ReflTransGen (EngineRegs.Op cfg rates) (m.regs e) r) : ReflTransGen (m.Op cfg rates) e (m.withRegs e r) := by
  induction h with
  | refl => rw [hm.self]
  | @tail r r' _ hop ih =>
    rw [← hm.set e r r']
    exact ih.tail (.regs (by rwa [hm.get]))

/-- The pipeline programs an engine by four of its setters (R503). -/
theorem EngineRegs.program_ops (r : EngineRegs N) (freq harm timb morph : N) :
    ReflTransGen (EngineRegs.Op cfg rates) r (r.program cfg freq harm timb morph) :=
  (((ReflTransGen.single (.setFreq freq)).tail (.setHarm harm)).tail (.setTimb timb)).tail (.setMorph morph)

section
variable (cfg : Config.Parameters N)

def SineOsc.meaning : EngineMeaning (SineOsc N) N :=
  ⟨(·.regs), fun e r => { e with regs := r }, SineOsc.reset cfg, fun e => (e.produce cfg).2⟩

def TriangleOsc.meaning : EngineMeaning (TriangleOsc N) N :=
  ⟨(·.regs), fun e r => { e with regs := r }, TriangleOsc.reset cfg, fun e => (e.produce cfg).2⟩

def SquareOsc.meaning : EngineMeaning (SquareOsc N) N :=
  ⟨(·.regs), fun e r => { e with regs := r }, SquareOsc.reset cfg, fun e => (e.produce cfg).2⟩

def SawOsc.meaning : EngineMeaning (SawOsc N) N :=
  ⟨(·.regs), fun e r => { e with regs := r }, SawOsc.reset cfg, fun e => (e.produce cfg).2⟩

def SupersawBank.meaning : EngineMeaning (SupersawBank N) N :=
  ⟨(·.regs), fun e r => { e with regs := r }, SupersawBank.reset cfg, fun e => (e.produce cfg).2⟩

def VirtualAnalog.meaning : EngineMeaning (VirtualAnalog N) N :=
  ⟨(·.regs), fun e r => { e with regs := r }, VirtualAnalog.reset cfg, fun e => (e.produce cfg).2⟩

def FmPair.meaning : EngineMeaning (FmPair N) N :=
  ⟨(·.regs), fun e r => { e with regs := r }, FmPair.reset cfg, fun e => (e.produce cfg).2⟩

def FormantFilter.meaning : EngineMeaning (FormantFilter N) N :=
  ⟨(·.regs), fun e r => { e with regs := r }, FormantFilter.reset cfg, fun e => (e.produce cfg).2⟩

def AdditiveBank.meaning : EngineMeaning (AdditiveBank N) N :=
  ⟨(·.regs), fun e r => { e with regs := r }, AdditiveBank.reset cfg, fun e => (e.produce cfg).2⟩

def ChordStack.meaning : EngineMeaning (ChordStack N) N :=
  ⟨(·.regs), fun e r => { e with regs := r }, ChordStack.reset cfg, fun e => (e.produce cfg).2⟩

def PluckedString.meaning [DecidableEq N] : EngineMeaning (PluckedString N) N :=
  ⟨(·.regs), fun e r => { e with regs := r }, PluckedString.reset cfg, fun e => (e.produce cfg).2⟩

def PwmOsc.meaning : EngineMeaning (PwmOsc N) N :=
  ⟨(·.regs), fun e r => { e with regs := r }, PwmOsc.reset cfg, fun e => (e.produce cfg).2⟩

theorem SineOsc.meaning_lawful : (SineOsc.meaning cfg).Lawful :=
  ⟨fun _ _ => rfl, fun _ _ _ => rfl, fun _ => rfl, fun _ => ⟨_, rfl⟩, fun _ => ⟨_, rfl⟩⟩

theorem TriangleOsc.meaning_lawful : (TriangleOsc.meaning cfg).Lawful :=
  ⟨fun _ _ => rfl, fun _ _ _ => rfl, fun _ => rfl, fun _ => ⟨_, rfl⟩, fun _ => ⟨_, rfl⟩⟩

theorem SquareOsc.meaning_lawful : (SquareOsc.meaning cfg).Lawful :=
  ⟨fun _ _ => rfl, fun _ _ _ => rfl, fun _ => rfl, fun _ => ⟨_, rfl⟩, fun _ => ⟨_, rfl⟩⟩

theorem SawOsc.meaning_lawful : (SawOsc.meaning cfg).Lawful :=
  ⟨fun _ _ => rfl, fun _ _ _ => rfl, fun _ => rfl, fun _ => ⟨_, rfl⟩, fun _ => ⟨_, rfl⟩⟩

theorem SupersawBank.meaning_lawful : (SupersawBank.meaning cfg).Lawful :=
  ⟨fun _ _ => rfl, fun _ _ _ => rfl, fun _ => rfl, fun _ => ⟨_, rfl⟩, fun _ => ⟨_, rfl⟩⟩

theorem VirtualAnalog.meaning_lawful : (VirtualAnalog.meaning cfg).Lawful :=
  ⟨fun _ _ => rfl, fun _ _ _ => rfl, fun _ => rfl, fun _ => ⟨_, rfl⟩, fun _ => ⟨_, rfl⟩⟩

theorem FmPair.meaning_lawful : (FmPair.meaning cfg).Lawful :=
  ⟨fun _ _ => rfl, fun _ _ _ => rfl, fun _ => rfl, fun _ => ⟨_, rfl⟩, fun _ => ⟨_, rfl⟩⟩

theorem FormantFilter.meaning_lawful : (FormantFilter.meaning cfg).Lawful :=
  ⟨fun _ _ => rfl, fun _ _ _ => rfl, fun _ => rfl, fun _ => ⟨_, rfl⟩, fun _ => ⟨_, rfl⟩⟩

theorem AdditiveBank.meaning_lawful : (AdditiveBank.meaning cfg).Lawful :=
  ⟨fun _ _ => rfl, fun _ _ _ => rfl, fun _ => rfl, fun _ => ⟨_, rfl⟩, fun _ => ⟨_, rfl⟩⟩

theorem ChordStack.meaning_lawful : (ChordStack.meaning cfg).Lawful :=
  ⟨fun _ _ => rfl, fun _ _ _ => rfl, fun _ => rfl, fun _ => ⟨_, rfl⟩, fun _ => ⟨_, rfl⟩⟩

theorem PluckedString.meaning_lawful [DecidableEq N] : (PluckedString.meaning cfg).Lawful :=
  ⟨fun _ _ => rfl, fun _ _ _ => rfl, fun _ => rfl, fun _ => ⟨_, rfl⟩, fun _ => ⟨_, rfl⟩⟩

theorem PwmOsc.meaning_lawful : (PwmOsc.meaning cfg).Lawful :=
  ⟨fun _ _ => rfl, fun _ _ _ => rfl, fun _ => rfl, fun _ => ⟨_, rfl⟩, fun _ => ⟨_, rfl⟩⟩

end

/-- The operations of ADSR (R351 to R359) and its full reset (R570). -/
inductive Adsr.Op (cfg : Config.Parameters N) (rates : Prop) (u : Adsr N) : Adsr N → Prop
  | reset : Op cfg rates u (u.reset cfg)
  | setSr (h : rates) (v : N) : Op cfg rates u (u.setSr cfg v)
  | setAttack (v : N) : Op cfg rates u (u.setAttack cfg v)
  | setDecay (v : N) : Op cfg rates u (u.setDecay cfg v)
  | setSustain (v : N) : Op cfg rates u (u.setSustain cfg v)
  | setRelease (v : N) : Op cfg rates u (u.setRelease cfg v)
  | gateOn : Op cfg rates u u.gateOn
  | gateOff : Op cfg rates u u.gateOff
  | process : Op cfg rates u (u.process cfg)
  | powerOn : Op cfg rates u
      (Adsr.reset cfg { u with sr := cfg.sr, a := cfg.zero, d := cfg.zero, s := cfg.zero, r := cfg.zero })

/-- The operations of AD (R366 to R372) and its full reset (R570). -/
inductive Ad.Op (cfg : Config.Parameters N) (rates : Prop) (u : Ad N) : Ad N → Prop
  | reset : Op cfg rates u (u.reset cfg)
  | setSr (h : rates) (v : N) : Op cfg rates u (u.setSr cfg v)
  | setAttack (v : N) : Op cfg rates u (u.setAttack cfg v)
  | setDecay (v : N) : Op cfg rates u (u.setDecay cfg v)
  | gateOn : Op cfg rates u u.gateOn
  | gateOff : Op cfg rates u (u.gateOff cfg)
  | process : Op cfg rates u (u.process cfg)
  | powerOn : Op cfg rates u (Ad.reset cfg { u with sr := cfg.sr, a := cfg.zero, d := cfg.zero })

/-- The operations of LFO (R382 to R387) and its full reset (R570). -/
inductive Lfo.Op (cfg : Config.Parameters N) (rates : Prop) (u : Lfo N) : Lfo N → Prop
  | reset : Op cfg rates u (u.reset cfg)
  | setSr (h : rates) (v : N) : Op cfg rates u (u.setSr cfg v)
  | setFreq (v : N) : Op cfg rates u (u.setFreq cfg v)
  | setWave (v : N) : Op cfg rates u (u.setWave cfg v)
  | setVar (v : N) : Op cfg rates u (u.setVar cfg v)
  | process : Op cfg rates u (u.process cfg)
  | powerOn : Op cfg rates u (Lfo.reset cfg
      { u with sr := cfg.sr, freq := cfg.zero, wave := .sine, variation := cfg.zero, seed := cfg.lfoSeed })

variable [DecidableEq N]

/-- The operations of FLT (R404 to R409) and its full reset (R570). -/
inductive Ladder.Op (cfg : Config.Parameters N) (rates : Prop) (u : Ladder N) : Ladder N → Prop
  | reset : Op cfg rates u (u.reset cfg)
  | setSr (h : rates) (v : N) : Op cfg rates u (u.setSr cfg v)
  | setCutoff (v : N) : Op cfg rates u (u.setCutoff cfg v)
  | setRes (v : N) : Op cfg rates u (u.setRes cfg v)
  | setWet (v : N) : Op cfg rates u (u.setWet cfg v)
  | process (c : Chan) (x : N) : Op cfg rates u (u.process cfg c x)
  | powerOn : Op cfg rates u
      (Ladder.reset cfg { u with sr := cfg.sr, fc := cfg.fcMin, res := cfg.zero, wet := cfg.zero })

/-- The operations of DLY (R423 to R426) and its full reset (R570). -/
inductive Delay.Op (cfg : Config.Parameters N) (u : Delay N) : Delay N → Prop
  | reset : Op cfg u (u.reset cfg)
  | setAmount (v : N) : Op cfg u (u.setAmount cfg v)
  | process (c : Chan) (x : N) : Op cfg u (u.process cfg c x)
  | powerOn : Op cfg u (Delay.reset cfg { u with amount := cfg.zero })

/-- The operations of CHO (R443 to R448) and its full reset (R570). -/
inductive Chorus.Op (cfg : Config.Parameters N) (u : Chorus N) : Chorus N → Prop
  | reset : Op cfg u (u.reset cfg)
  | setAmount (v : N) : Op cfg u (u.setAmount cfg v)
  | process (c : Chan) (x : N) : Op cfg u (u.process cfg c x)
  | powerOn : Op cfg u (Chorus.reset cfg { u with amount := cfg.zero })

/-- The operations of REV (R463 to R467) and its full reset (R570). -/
inductive Reverb.Op (cfg : Config.Parameters N) (u : Reverb N) : Reverb N → Prop
  | reset : Op cfg u u.reset
  | setAmount (v : N) : Op cfg u (u.setAmount cfg v)
  | process (c : Chan) (x : N) : Op cfg u (u.process cfg c x)
  | powerOn : Op cfg u (Reverb.reset { u with amount := cfg.zero })

/-- The writes to the fields of PIPE (R485, R490, R493, R494, R501, R503, R507, R570). -/
inductive Pipe.Op (cfg : Config.Parameters N) (p : Pipe N) : Pipe N → Prop
  | setParam (i : Nat) (v : N) : Op cfg p { p with p := bankSet p.p i v }
  | noteOn (n : BitVec 7) : Op cfg p
      { p with heldNote := n, noteFreq := cfg.ftz (notefreq cfg n), gate := true, hasNote := true }
  | noteOff : Op cfg p { p with gate := false }
  | latch : Op cfg p { p with pl := latchOf cfg p.p }
  | adLevel (u : Ad N) : Op cfg p { p with adLevel := cfg.ftz (u.process cfg).level }
  | select (k : Engine) : Op cfg p { p with selPrev := BitVec.ofNat 4 k.index }
  | silence (b : Bool) : Op cfg p { p with wasSilent := b }
  | powerOn : Op cfg p { p with
      heldNote := 0#7, noteFreq := cfg.zero, gate := false, hasNote := false, wasSilent := true, selPrev := 15#4
      adLevel := cfg.zero }

/-! ## The operation map as a relation (R113) -/

/-- The state `u` that operation `i` makes of `s` before it returns its response word: one unit goes through one of its
own operations, a `SET_SR` only when the operation code is 01, or `i` is one of PIPE's six. -/
inductive Effect (cfg : Config.Parameters N) (s : State.Of N) : Instr → State.Of N → Prop
  | e0 {i e} (hu : unitField (encode i) = 0x00#8)
      (h : (SineOsc.meaning cfg).Op cfg (opField (encode i) = 0x01#8) s.e0 e) : Effect cfg s i { s with e0 := e }
  | e1 {i e} (hu : unitField (encode i) = 0x01#8)
      (h : (TriangleOsc.meaning cfg).Op cfg (opField (encode i) = 0x01#8) s.e1 e) : Effect cfg s i { s with e1 := e }
  | e2 {i e} (hu : unitField (encode i) = 0x02#8)
      (h : (SquareOsc.meaning cfg).Op cfg (opField (encode i) = 0x01#8) s.e2 e) : Effect cfg s i { s with e2 := e }
  | e3 {i e} (hu : unitField (encode i) = 0x03#8)
      (h : (SawOsc.meaning cfg).Op cfg (opField (encode i) = 0x01#8) s.e3 e) : Effect cfg s i { s with e3 := e }
  | e4 {i e} (hu : unitField (encode i) = 0x04#8)
      (h : (SupersawBank.meaning cfg).Op cfg (opField (encode i) = 0x01#8) s.e4 e) : Effect cfg s i { s with e4 := e }
  | e5 {i e} (hu : unitField (encode i) = 0x05#8)
      (h : (VirtualAnalog.meaning cfg).Op cfg (opField (encode i) = 0x01#8) s.e5 e) : Effect cfg s i { s with e5 := e }
  | e6 {i e} (hu : unitField (encode i) = 0x06#8)
      (h : (FmPair.meaning cfg).Op cfg (opField (encode i) = 0x01#8) s.e6 e) : Effect cfg s i { s with e6 := e }
  | e7 {i e} (hu : unitField (encode i) = 0x07#8)
      (h : (FormantFilter.meaning cfg).Op cfg (opField (encode i) = 0x01#8) s.e7 e) : Effect cfg s i { s with e7 := e }
  | e8 {i e} (hu : unitField (encode i) = 0x08#8)
      (h : (AdditiveBank.meaning cfg).Op cfg (opField (encode i) = 0x01#8) s.e8 e) : Effect cfg s i { s with e8 := e }
  | e9 {i e} (hu : unitField (encode i) = 0x09#8)
      (h : (ChordStack.meaning cfg).Op cfg (opField (encode i) = 0x01#8) s.e9 e) : Effect cfg s i { s with e9 := e }
  | e10 {i e} (hu : unitField (encode i) = 0x0A#8)
      (h : (PluckedString.meaning cfg).Op cfg (opField (encode i) = 0x01#8) s.e10 e) :
      Effect cfg s i { s with e10 := e }
  | e11 {i e} (hu : unitField (encode i) = 0x0B#8)
      (h : (PwmOsc.meaning cfg).Op cfg (opField (encode i) = 0x01#8) s.e11 e) : Effect cfg s i { s with e11 := e }
  | adsr {i u} (hu : unitField (encode i) = 0x10#8) (h : s.adsr.Op cfg (opField (encode i) = 0x01#8) u) :
      Effect cfg s i { s with adsr := u }
  | ad {i u} (hu : unitField (encode i) = 0x11#8) (h : s.ad.Op cfg (opField (encode i) = 0x01#8) u) :
      Effect cfg s i { s with ad := u }
  | lfo {i u} (hu : unitField (encode i) = 0x12#8) (h : s.lfo.Op cfg (opField (encode i) = 0x01#8) u) :
      Effect cfg s i { s with lfo := u }
  | flt {i u} (hu : unitField (encode i) = 0x18#8) (h : s.flt.Op cfg (opField (encode i) = 0x01#8) u) :
      Effect cfg s i { s with flt := u }
  | dly {i u} (hu : unitField (encode i) = 0x20#8) (h : s.dly.Op cfg u) : Effect cfg s i { s with dly := u }
  | cho {i u} (hu : unitField (encode i) = 0x21#8) (h : s.cho.Op cfg u) : Effect cfg s i { s with cho := u }
  | rev {i u} (hu : unitField (encode i) = 0x22#8) (h : s.rev.Op cfg u) : Effect cfg s i { s with rev := u }
  | fullReset : Effect cfg s .pipeFullReset (s.fullReset cfg)
  | paramSet (i : Idx) (v : Data) (h : paramIndexOf i < cfg.nParams) : Effect cfg s (.pipeParamSet i v)
      { s with pipe := { s.pipe with p := bankSet s.pipe.p (paramIndexOf i) (cfg.num v) } }
  | paramSetOut (i : Idx) (v : Data) : Effect cfg s (.pipeParamSet i v) s
  | paramGet (i : Idx) : Effect cfg s (.pipeParamGet i) s
  | noteOn (note : Idx) (vel : Data) : Effect cfg s (.pipeNoteOn note vel) (s.noteOn cfg (noteOf note))
  | noteOnVelocityZero (note : Idx) (vel : Data) : Effect cfg s (.pipeNoteOn note vel) (s.noteOff cfg (noteOf note))
  | noteOff (note : Idx) : Effect cfg s (.pipeNoteOff note) (s.noteOff cfg (noteOf note))
  | processBlock (n : Data) :
      Effect cfg s (.pipeProcessBlock n) (State.Of.runFrames cfg (countOf n) (s.startBlock cfg))

section
variable {i : Instr} {s t u : State.Of N}

omit [DecidableEq N] in
theorem done_inv (h : done u = .next t) : ∃ hi lo, t = u.respond hi lo := by
  cases h
  exact ⟨_, _, rfl⟩

omit [DecidableEq N] in
theorem doneWith_inv {y : N} (h : doneWith u y cfg = .next t) : ∃ hi lo, t = u.respond hi lo := by
  cases h
  exact ⟨_, _, rfl⟩

omit [DecidableEq N] in
theorem doneWithPair_inv {y : Stereo N} (h : doneWithPair u y cfg = .next t) : ∃ hi lo, t = u.respond hi lo := by
  cases h
  exact ⟨_, _, rfl⟩

theorem done_effect (h : done u = .next t) (he : Effect cfg s i u) : ∃ u hi lo, Effect cfg s i u ∧ t = u.respond hi lo :=
  have ⟨hi, lo, ht⟩ := done_inv h
  ⟨u, hi, lo, he, ht⟩

theorem doneWith_effect {y : N} (h : doneWith u y cfg = .next t) (he : Effect cfg s i u) :
    ∃ u hi lo, Effect cfg s i u ∧ t = u.respond hi lo :=
  have ⟨hi, lo, ht⟩ := doneWith_inv h
  ⟨u, hi, lo, he, ht⟩

theorem doneWithPair_effect {y : Stereo N} (h : doneWithPair u y cfg = .next t) (he : Effect cfg s i u) :
    ∃ u hi lo, Effect cfg s i u ∧ t = u.respond hi lo :=
  have ⟨hi, lo, ht⟩ := doneWithPair_inv h
  ⟨u, hi, lo, he, ht⟩

end

open Laws (unitField_commandWord opField_commandWord)

/-- All that an operation can do: its effect on the state, then one response word. -/
theorem execIn_effect {i : Instr} {s t : State.Of N} (h : execIn cfg i s = .next t) :
    ∃ u hi lo, Effect cfg s i u ∧ t = u.respond hi lo := by
  cases i with
  | e0Reset => exact done_effect h (.e0 (unitField_commandWord ..) .reset)
  | e0SetSr v => exact done_effect h (.e0 (unitField_commandWord ..) (.regs (.setSr (opField_commandWord ..) _)))
  | e0SetFreq v => exact done_effect h (.e0 (unitField_commandWord ..) (.regs (.setFreq _)))
  | e0SetHarm v => exact done_effect h (.e0 (unitField_commandWord ..) (.regs (.setHarm _)))
  | e0SetTimb v => exact done_effect h (.e0 (unitField_commandWord ..) (.regs (.setTimb _)))
  | e0SetMorph v => exact done_effect h (.e0 (unitField_commandWord ..) (.regs (.setMorph _)))
  | e0SetLevel v => exact done_effect h (.e0 (unitField_commandWord ..) (.regs (.setLevel _)))
  | e0Produce => exact doneWithPair_effect h (.e0 (unitField_commandWord ..) .produce)
  | e1Reset => exact done_effect h (.e1 (unitField_commandWord ..) .reset)
  | e1SetSr v => exact done_effect h (.e1 (unitField_commandWord ..) (.regs (.setSr (opField_commandWord ..) _)))
  | e1SetFreq v => exact done_effect h (.e1 (unitField_commandWord ..) (.regs (.setFreq _)))
  | e1SetHarm v => exact done_effect h (.e1 (unitField_commandWord ..) (.regs (.setHarm _)))
  | e1SetTimb v => exact done_effect h (.e1 (unitField_commandWord ..) (.regs (.setTimb _)))
  | e1SetMorph v => exact done_effect h (.e1 (unitField_commandWord ..) (.regs (.setMorph _)))
  | e1SetLevel v => exact done_effect h (.e1 (unitField_commandWord ..) (.regs (.setLevel _)))
  | e1Produce => exact doneWithPair_effect h (.e1 (unitField_commandWord ..) .produce)
  | e2Reset => exact done_effect h (.e2 (unitField_commandWord ..) .reset)
  | e2SetSr v => exact done_effect h (.e2 (unitField_commandWord ..) (.regs (.setSr (opField_commandWord ..) _)))
  | e2SetFreq v => exact done_effect h (.e2 (unitField_commandWord ..) (.regs (.setFreq _)))
  | e2SetHarm v => exact done_effect h (.e2 (unitField_commandWord ..) (.regs (.setHarm _)))
  | e2SetTimb v => exact done_effect h (.e2 (unitField_commandWord ..) (.regs (.setTimb _)))
  | e2SetMorph v => exact done_effect h (.e2 (unitField_commandWord ..) (.regs (.setMorph _)))
  | e2SetLevel v => exact done_effect h (.e2 (unitField_commandWord ..) (.regs (.setLevel _)))
  | e2Produce => exact doneWithPair_effect h (.e2 (unitField_commandWord ..) .produce)
  | e3Reset => exact done_effect h (.e3 (unitField_commandWord ..) .reset)
  | e3SetSr v => exact done_effect h (.e3 (unitField_commandWord ..) (.regs (.setSr (opField_commandWord ..) _)))
  | e3SetFreq v => exact done_effect h (.e3 (unitField_commandWord ..) (.regs (.setFreq _)))
  | e3SetHarm v => exact done_effect h (.e3 (unitField_commandWord ..) (.regs (.setHarm _)))
  | e3SetTimb v => exact done_effect h (.e3 (unitField_commandWord ..) (.regs (.setTimb _)))
  | e3SetMorph v => exact done_effect h (.e3 (unitField_commandWord ..) (.regs (.setMorph _)))
  | e3SetLevel v => exact done_effect h (.e3 (unitField_commandWord ..) (.regs (.setLevel _)))
  | e3Produce => exact doneWithPair_effect h (.e3 (unitField_commandWord ..) .produce)
  | e4Reset => exact done_effect h (.e4 (unitField_commandWord ..) .reset)
  | e4SetSr v => exact done_effect h (.e4 (unitField_commandWord ..) (.regs (.setSr (opField_commandWord ..) _)))
  | e4SetFreq v => exact done_effect h (.e4 (unitField_commandWord ..) (.regs (.setFreq _)))
  | e4SetHarm v => exact done_effect h (.e4 (unitField_commandWord ..) (.regs (.setHarm _)))
  | e4SetTimb v => exact done_effect h (.e4 (unitField_commandWord ..) (.regs (.setTimb _)))
  | e4SetMorph v => exact done_effect h (.e4 (unitField_commandWord ..) (.regs (.setMorph _)))
  | e4SetLevel v => exact done_effect h (.e4 (unitField_commandWord ..) (.regs (.setLevel _)))
  | e4Produce => exact doneWithPair_effect h (.e4 (unitField_commandWord ..) .produce)
  | e5Reset => exact done_effect h (.e5 (unitField_commandWord ..) .reset)
  | e5SetSr v => exact done_effect h (.e5 (unitField_commandWord ..) (.regs (.setSr (opField_commandWord ..) _)))
  | e5SetFreq v => exact done_effect h (.e5 (unitField_commandWord ..) (.regs (.setFreq _)))
  | e5SetHarm v => exact done_effect h (.e5 (unitField_commandWord ..) (.regs (.setHarm _)))
  | e5SetTimb v => exact done_effect h (.e5 (unitField_commandWord ..) (.regs (.setTimb _)))
  | e5SetMorph v => exact done_effect h (.e5 (unitField_commandWord ..) (.regs (.setMorph _)))
  | e5SetLevel v => exact done_effect h (.e5 (unitField_commandWord ..) (.regs (.setLevel _)))
  | e5Produce => exact doneWithPair_effect h (.e5 (unitField_commandWord ..) .produce)
  | e6Reset => exact done_effect h (.e6 (unitField_commandWord ..) .reset)
  | e6SetSr v => exact done_effect h (.e6 (unitField_commandWord ..) (.regs (.setSr (opField_commandWord ..) _)))
  | e6SetFreq v => exact done_effect h (.e6 (unitField_commandWord ..) (.regs (.setFreq _)))
  | e6SetHarm v => exact done_effect h (.e6 (unitField_commandWord ..) (.regs (.setHarm _)))
  | e6SetTimb v => exact done_effect h (.e6 (unitField_commandWord ..) (.regs (.setTimb _)))
  | e6SetMorph v => exact done_effect h (.e6 (unitField_commandWord ..) (.regs (.setMorph _)))
  | e6SetLevel v => exact done_effect h (.e6 (unitField_commandWord ..) (.regs (.setLevel _)))
  | e6Produce => exact doneWithPair_effect h (.e6 (unitField_commandWord ..) .produce)
  | e7Reset => exact done_effect h (.e7 (unitField_commandWord ..) .reset)
  | e7SetSr v => exact done_effect h (.e7 (unitField_commandWord ..) (.regs (.setSr (opField_commandWord ..) _)))
  | e7SetFreq v => exact done_effect h (.e7 (unitField_commandWord ..) (.regs (.setFreq _)))
  | e7SetHarm v => exact done_effect h (.e7 (unitField_commandWord ..) (.regs (.setHarm _)))
  | e7SetTimb v => exact done_effect h (.e7 (unitField_commandWord ..) (.regs (.setTimb _)))
  | e7SetMorph v => exact done_effect h (.e7 (unitField_commandWord ..) (.regs (.setMorph _)))
  | e7SetLevel v => exact done_effect h (.e7 (unitField_commandWord ..) (.regs (.setLevel _)))
  | e7Produce => exact doneWithPair_effect h (.e7 (unitField_commandWord ..) .produce)
  | e8Reset => exact done_effect h (.e8 (unitField_commandWord ..) .reset)
  | e8SetSr v => exact done_effect h (.e8 (unitField_commandWord ..) (.regs (.setSr (opField_commandWord ..) _)))
  | e8SetFreq v => exact done_effect h (.e8 (unitField_commandWord ..) (.regs (.setFreq _)))
  | e8SetHarm v => exact done_effect h (.e8 (unitField_commandWord ..) (.regs (.setHarm _)))
  | e8SetTimb v => exact done_effect h (.e8 (unitField_commandWord ..) (.regs (.setTimb _)))
  | e8SetMorph v => exact done_effect h (.e8 (unitField_commandWord ..) (.regs (.setMorph _)))
  | e8SetLevel v => exact done_effect h (.e8 (unitField_commandWord ..) (.regs (.setLevel _)))
  | e8Produce => exact doneWithPair_effect h (.e8 (unitField_commandWord ..) .produce)
  | e9Reset => exact done_effect h (.e9 (unitField_commandWord ..) .reset)
  | e9SetSr v => exact done_effect h (.e9 (unitField_commandWord ..) (.regs (.setSr (opField_commandWord ..) _)))
  | e9SetFreq v => exact done_effect h (.e9 (unitField_commandWord ..) (.regs (.setFreq _)))
  | e9SetHarm v => exact done_effect h (.e9 (unitField_commandWord ..) (.regs (.setHarm _)))
  | e9SetTimb v => exact done_effect h (.e9 (unitField_commandWord ..) (.regs (.setTimb _)))
  | e9SetMorph v => exact done_effect h (.e9 (unitField_commandWord ..) (.regs (.setMorph _)))
  | e9SetLevel v => exact done_effect h (.e9 (unitField_commandWord ..) (.regs (.setLevel _)))
  | e9Produce => exact doneWithPair_effect h (.e9 (unitField_commandWord ..) .produce)
  | e10Reset => exact done_effect h (.e10 (unitField_commandWord ..) .reset)
  | e10SetSr v => exact done_effect h (.e10 (unitField_commandWord ..) (.regs (.setSr (opField_commandWord ..) _)))
  | e10SetFreq v => exact done_effect h (.e10 (unitField_commandWord ..) (.regs (.setFreq _)))
  | e10SetHarm v => exact done_effect h (.e10 (unitField_commandWord ..) (.regs (.setHarm _)))
  | e10SetTimb v => exact done_effect h (.e10 (unitField_commandWord ..) (.regs (.setTimb _)))
  | e10SetMorph v => exact done_effect h (.e10 (unitField_commandWord ..) (.regs (.setMorph _)))
  | e10SetLevel v => exact done_effect h (.e10 (unitField_commandWord ..) (.regs (.setLevel _)))
  | e10Produce => exact doneWithPair_effect h (.e10 (unitField_commandWord ..) .produce)
  | e11Reset => exact done_effect h (.e11 (unitField_commandWord ..) .reset)
  | e11SetSr v => exact done_effect h (.e11 (unitField_commandWord ..) (.regs (.setSr (opField_commandWord ..) _)))
  | e11SetFreq v => exact done_effect h (.e11 (unitField_commandWord ..) (.regs (.setFreq _)))
  | e11SetHarm v => exact done_effect h (.e11 (unitField_commandWord ..) (.regs (.setHarm _)))
  | e11SetTimb v => exact done_effect h (.e11 (unitField_commandWord ..) (.regs (.setTimb _)))
  | e11SetMorph v => exact done_effect h (.e11 (unitField_commandWord ..) (.regs (.setMorph _)))
  | e11SetLevel v => exact done_effect h (.e11 (unitField_commandWord ..) (.regs (.setLevel _)))
  | e11Produce => exact doneWithPair_effect h (.e11 (unitField_commandWord ..) .produce)
  | adsrReset => exact done_effect h (.adsr (unitField_commandWord ..) .reset)
  | adsrSetSr v => exact done_effect h (.adsr (unitField_commandWord ..) (.setSr (opField_commandWord ..) _))
  | adsrSetAttack v => exact done_effect h (.adsr (unitField_commandWord ..) (.setAttack _))
  | adsrSetDecay v => exact done_effect h (.adsr (unitField_commandWord ..) (.setDecay _))
  | adsrSetSustain v => exact done_effect h (.adsr (unitField_commandWord ..) (.setSustain _))
  | adsrSetRelease v => exact done_effect h (.adsr (unitField_commandWord ..) (.setRelease _))
  | adsrGateOn => exact done_effect h (.adsr (unitField_commandWord ..) .gateOn)
  | adsrGateOff => exact done_effect h (.adsr (unitField_commandWord ..) .gateOff)
  | adsrProcess => exact doneWith_effect h (.adsr (unitField_commandWord ..) .process)
  | adReset => exact done_effect h (.ad (unitField_commandWord ..) .reset)
  | adSetSr v => exact done_effect h (.ad (unitField_commandWord ..) (.setSr (opField_commandWord ..) _))
  | adSetAttack v => exact done_effect h (.ad (unitField_commandWord ..) (.setAttack _))
  | adSetDecay v => exact done_effect h (.ad (unitField_commandWord ..) (.setDecay _))
  | adGateOn => exact done_effect h (.ad (unitField_commandWord ..) .gateOn)
  | adGateOff => exact done_effect h (.ad (unitField_commandWord ..) .gateOff)
  | adProcess => exact doneWith_effect h (.ad (unitField_commandWord ..) .process)
  | lfoReset => exact done_effect h (.lfo (unitField_commandWord ..) .reset)
  | lfoSetSr v => exact done_effect h (.lfo (unitField_commandWord ..) (.setSr (opField_commandWord ..) _))
  | lfoSetFreq v => exact done_effect h (.lfo (unitField_commandWord ..) (.setFreq _))
  | lfoProcess => exact doneWith_effect h (.lfo (unitField_commandWord ..) .process)
  | lfoSetWave v => exact done_effect h (.lfo (unitField_commandWord ..) (.setWave _))
  | lfoSetVar v => exact done_effect h (.lfo (unitField_commandWord ..) (.setVar _))
  | fltReset => exact done_effect h (.flt (unitField_commandWord ..) .reset)
  | fltSetSr v => exact done_effect h (.flt (unitField_commandWord ..) (.setSr (opField_commandWord ..) _))
  | fltProcess c v => exact doneWith_effect h (.flt (unitField_commandWord ..) (.process _ _))
  | fltSetCutoff v => exact done_effect h (.flt (unitField_commandWord ..) (.setCutoff _))
  | fltSetRes v => exact done_effect h (.flt (unitField_commandWord ..) (.setRes _))
  | fltSetWet v => exact done_effect h (.flt (unitField_commandWord ..) (.setWet _))
  | dlyReset => exact done_effect h (.dly (unitField_commandWord ..) .reset)
  | dlyProcess c v => exact doneWith_effect h (.dly (unitField_commandWord ..) (.process _ _))
  | dlySetAmount v => exact done_effect h (.dly (unitField_commandWord ..) (.setAmount _))
  | choReset => exact done_effect h (.cho (unitField_commandWord ..) .reset)
  | choProcess c v => exact doneWith_effect h (.cho (unitField_commandWord ..) (.process _ _))
  | choSetAmount v => exact done_effect h (.cho (unitField_commandWord ..) (.setAmount _))
  | revReset => exact done_effect h (.rev (unitField_commandWord ..) .reset)
  | revProcess c v => exact doneWith_effect h (.rev (unitField_commandWord ..) (.process _ _))
  | revSetAmount v => exact done_effect h (.rev (unitField_commandWord ..) (.setAmount _))
  | pipeFullReset => exact done_effect h .fullReset
  | pipeParamSet i v =>
    refine done_effect h ?_
    split
    · exact .paramSet i v ‹_›
    · exact .paramSetOut i v
  | pipeParamGet i => exact doneWith_effect h (.paramGet i)
  | pipeNoteOn note vel =>
    refine done_effect h ?_
    split
    · exact .noteOnVelocityZero note vel
    · exact .noteOn note vel
  | pipeNoteOff note => exact done_effect h (.noteOff note)
  | pipeProcessBlock n => exact done_effect h (.processBlock n)

/-- The same of the block in the reference configuration. -/
theorem exec_effect {i : Instr} {s t : State} (h : exec i s = .next t) :
    ∃ u hi lo, Effect Config.reference s i u ∧ t = u.respond hi lo :=
  execIn_effect ((execIn_reference i s).trans h)

/-- The rows build operations whose command words carry the rows' operation codes. -/
def CodesAgree (rows : List OpRow) : Prop := ∀ r ∈ rows, ∀ idx data, opField (encode (r.build idx data)) = r.op

theorem codesAgree_nil : CodesAgree [] := List.forall_mem_nil _

theorem codesAgree_append {rows rows' : List OpRow} (h : CodesAgree rows) (h' : CodesAgree rows') :
    CodesAgree (rows ++ rows') := List.forall_mem_append.2 ⟨h, h'⟩

theorem codesAgree_cons {u o : BitVec 8} {build : Idx → Data → Instr} {idx' : Idx → Data → Idx}
    {data' : Idx → Data → Data} {rows : List OpRow} (h : CodesAgree rows)
    (he : ∀ idx data, encode (build idx data) = commandWord u o (idx' idx data) (data' idx data)) :
    CodesAgree (⟨u, o, build⟩ :: rows) :=
  List.forall_mem_cons.2 ⟨fun idx data => by rw [he, opField_commandWord], h⟩

theorem codesAgree_opRows : CodesAgree opRows := by
  unfold opRows
  iterate 19 refine codesAgree_append ?_ ?_
  all_goals
    repeat refine codesAgree_cons ?_ fun _ _ => rfl
    exact codesAgree_nil

/-- What the decoder reads has the operation code of its word (R111, R113). -/
theorem opField_encode_of_decode {cw : CommandWord} {i : Instr} (h : decode cw = .ok i) :
    opField (encode i) = opField cw := by
  unfold decode decodeFields at h
  cases hrow : findRow (unitField cw) (opField cw) with
  | none =>
    rw [hrow] at h
    dsimp only at h
    split at h <;> cases h
  | some r =>
    rw [hrow] at h
    cases h
    have hfound : (r.unit == unitField cw && r.op == opField cw) = true :=
      List.find?_some (p := fun r : OpRow => r.unit == unitField cw && r.op == opField cw) hrow
    rw [codesAgree_opRows r (List.mem_of_find?_eq_some hrow)]
    exact eq_of_beq (Bool.and_eq_true _ _ ▸ hfound).2

/-- All that a step can do in any configuration: it leaves the state as it is, runs the operation of the first command, or
answers a reserved word with `RW = 0`. -/
theorem stepIn_cases {s t : State.Of N} (h : stepIn cfg s = .next t) :
    t = s ∨ ∃ cw rest, s.cmds = cw :: rest ∧
      ((∃ i, decode cw = .ok i ∧ execIn cfg i { s with cmds := rest } = .next t) ∨
        ∃ hi lo, t = ({ s with cmds := rest } : State.Of N).respond hi lo) := by
  unfold stepIn stepWith State.Of.takeCommand at h
  cases hcmds : s.cmds with
  | nil =>
    rw [hcmds] at h
    cases h
    exact .inl rfl
  | cons cw rest =>
    rw [hcmds] at h
    refine .inr ⟨cw, rest, rfl, ?_⟩
    dsimp only at h
    cases hdec : decode cw with
    | ok i =>
      rw [hdec] at h
      exact .inl ⟨i, rfl, h⟩
    | error err =>
      rw [hdec] at h
      exact .inr (done_inv h)

/-! ## Sequences of operations (R60) -/

/-- From `s` to `t` every unit goes through a sequence of its own operations. -/
structure Evolves (cfg : Config.Parameters N) (rates : Prop) (s t : State.Of N) : Prop where
  e0 : ReflTransGen ((SineOsc.meaning cfg).Op cfg rates) s.e0 t.e0
  e1 : ReflTransGen ((TriangleOsc.meaning cfg).Op cfg rates) s.e1 t.e1
  e2 : ReflTransGen ((SquareOsc.meaning cfg).Op cfg rates) s.e2 t.e2
  e3 : ReflTransGen ((SawOsc.meaning cfg).Op cfg rates) s.e3 t.e3
  e4 : ReflTransGen ((SupersawBank.meaning cfg).Op cfg rates) s.e4 t.e4
  e5 : ReflTransGen ((VirtualAnalog.meaning cfg).Op cfg rates) s.e5 t.e5
  e6 : ReflTransGen ((FmPair.meaning cfg).Op cfg rates) s.e6 t.e6
  e7 : ReflTransGen ((FormantFilter.meaning cfg).Op cfg rates) s.e7 t.e7
  e8 : ReflTransGen ((AdditiveBank.meaning cfg).Op cfg rates) s.e8 t.e8
  e9 : ReflTransGen ((ChordStack.meaning cfg).Op cfg rates) s.e9 t.e9
  e10 : ReflTransGen ((PluckedString.meaning cfg).Op cfg rates) s.e10 t.e10
  e11 : ReflTransGen ((PwmOsc.meaning cfg).Op cfg rates) s.e11 t.e11
  adsr : ReflTransGen (Adsr.Op cfg rates) s.adsr t.adsr
  ad : ReflTransGen (Ad.Op cfg rates) s.ad t.ad
  lfo : ReflTransGen (Lfo.Op cfg rates) s.lfo t.lfo
  flt : ReflTransGen (Ladder.Op cfg rates) s.flt t.flt
  dly : ReflTransGen (Delay.Op cfg) s.dly t.dly
  cho : ReflTransGen (Chorus.Op cfg) s.cho t.cho
  rev : ReflTransGen (Reverb.Op cfg) s.rev t.rev
  pipe : ReflTransGen (Pipe.Op cfg) s.pipe t.pipe

/-- What each operation keeps, a sequence of them keeps. -/
theorem keeps_of_sequence {α : Type} {R : α → α → Prop} {P : α → Prop} (hop : ∀ a b, R a b → P a → P b) {a b : α}
    (h : ReflTransGen R a b) (ha : P a) : P b := by
  induction h with
  | refl => exact ha
  | tail _ hbc hb => exact hop _ _ hbc hb

namespace Evolves
variable {s t u : State.Of N}

theorem refl (s : State.Of N) : Evolves cfg rates s s :=
  ⟨.refl, .refl, .refl, .refl, .refl, .refl, .refl, .refl, .refl, .refl, .refl, .refl, .refl, .refl, .refl, .refl, .refl,
    .refl, .refl, .refl⟩

theorem trans (h : Evolves cfg rates s t) (h' : Evolves cfg rates t u) : Evolves cfg rates s u where
  e0 := h.e0.trans h'.e0
  e1 := h.e1.trans h'.e1
  e2 := h.e2.trans h'.e2
  e3 := h.e3.trans h'.e3
  e4 := h.e4.trans h'.e4
  e5 := h.e5.trans h'.e5
  e6 := h.e6.trans h'.e6
  e7 := h.e7.trans h'.e7
  e8 := h.e8.trans h'.e8
  e9 := h.e9.trans h'.e9
  e10 := h.e10.trans h'.e10
  e11 := h.e11.trans h'.e11
  adsr := h.adsr.trans h'.adsr
  ad := h.ad.trans h'.ad
  lfo := h.lfo.trans h'.lfo
  flt := h.flt.trans h'.flt
  dly := h.dly.trans h'.dly
  cho := h.cho.trans h'.cho
  rev := h.rev.trans h'.rev
  pipe := h.pipe.trans h'.pipe

/-- The ports belong to no unit. -/
theorem respond (h : Evolves cfg rates s t) (hi lo : BitVec 32) : Evolves cfg rates s (t.respond hi lo) := { h with }

theorem emit (h : Evolves cfg rates s t) (y : Stereo N) : Evolves cfg rates s (t.emit y cfg) := { h with }

theorem withCmds (s : State.Of N) (rest : List CommandWord) : Evolves cfg rates s { s with cmds := rest } :=
  { refl s with }

variable (s)

/-! ### The pipeline (R490 to R508, R570) -/

theorem resetEngine (k : Engine) : Evolves cfg rates s (s.resetEngine cfg k) := by
  cases k with
  | sine => exact { refl s with e0 := .single .reset }
  | triangle => exact { refl s with e1 := .single .reset }
  | square => exact { refl s with e2 := .single .reset }
  | saw => exact { refl s with e3 := .single .reset }
  | supersaw => exact { refl s with e4 := .single .reset }
  | virtualAnalog => exact { refl s with e5 := .single .reset }
  | fm => exact { refl s with e6 := .single .reset }
  | formant => exact { refl s with e7 := .single .reset }
  | additive => exact { refl s with e8 := .single .reset }
  | chord => exact { refl s with e9 := .single .reset }
  | pluckedString => exact { refl s with e10 := .single .reset }
  | pwm => exact { refl s with e11 := .single .reset }

theorem engineAdvance (k : Engine) : Evolves cfg rates s (s.engineAdvance cfg k) := by
  cases k with
  | sine => exact { refl s with e0 := .single .produce }
  | triangle => exact { refl s with e1 := .single .produce }
  | square => exact { refl s with e2 := .single .produce }
  | saw => exact { refl s with e3 := .single .produce }
  | supersaw => exact { refl s with e4 := .single .produce }
  | virtualAnalog => exact { refl s with e5 := .single .produce }
  | fm => exact { refl s with e6 := .single .produce }
  | formant => exact { refl s with e7 := .single .produce }
  | additive => exact { refl s with e8 := .single .produce }
  | chord => exact { refl s with e9 := .single .produce }
  | pluckedString => exact { refl s with e10 := .single .produce }
  | pwm => exact { refl s with e11 := .single .produce }

end Evolves

namespace Evolves
variable (s : State.Of N)

theorem programEngine (freq harm timb morph : N) (k : Engine) :
    Evolves cfg rates s (s.programEngine cfg freq harm timb morph k) := by
  have ops := fun r : EngineRegs N => EngineRegs.program_ops (cfg := cfg) (rates := rates) r freq harm timb morph
  cases k with
  | sine => exact { refl s with e0 := EngineMeaning.ops_of_regs (SineOsc.meaning_lawful cfg) (ops _) }
  | triangle => exact { refl s with e1 := EngineMeaning.ops_of_regs (TriangleOsc.meaning_lawful cfg) (ops _) }
  | square => exact { refl s with e2 := EngineMeaning.ops_of_regs (SquareOsc.meaning_lawful cfg) (ops _) }
  | saw => exact { refl s with e3 := EngineMeaning.ops_of_regs (SawOsc.meaning_lawful cfg) (ops _) }
  | supersaw => exact { refl s with e4 := EngineMeaning.ops_of_regs (SupersawBank.meaning_lawful cfg) (ops _) }
  | virtualAnalog => exact { refl s with e5 := EngineMeaning.ops_of_regs (VirtualAnalog.meaning_lawful cfg) (ops _) }
  | fm => exact { refl s with e6 := EngineMeaning.ops_of_regs (FmPair.meaning_lawful cfg) (ops _) }
  | formant => exact { refl s with e7 := EngineMeaning.ops_of_regs (FormantFilter.meaning_lawful cfg) (ops _) }
  | additive => exact { refl s with e8 := EngineMeaning.ops_of_regs (AdditiveBank.meaning_lawful cfg) (ops _) }
  | chord => exact { refl s with e9 := EngineMeaning.ops_of_regs (ChordStack.meaning_lawful cfg) (ops _) }
  | pluckedString => exact { refl s with e10 := EngineMeaning.ops_of_regs (PluckedString.meaning_lawful cfg) (ops _) }
  | pwm => exact { refl s with e11 := EngineMeaning.ops_of_regs (PwmOsc.meaning_lawful cfg) (ops _) }

theorem noteOn (n : BitVec 7) : Evolves cfg rates s (s.noteOn cfg n) := by
  have events : Evolves cfg rates s { s with
      pipe := { s.pipe with heldNote := n, noteFreq := cfg.ftz (notefreq cfg n), gate := true, hasNote := true }
      adsr := s.adsr.gateOn
      ad := s.ad.gateOn } :=
    { refl s with pipe := .single (.noteOn n), adsr := .single .gateOn, ad := .single .gateOn }
  unfold State.Of.noteOn
  dsimp only
  split
  · exact events.trans (resetEngine _ _)
  · exact events

theorem noteOff (n : BitVec 7) : Evolves cfg rates s (s.noteOff cfg n) := by
  unfold State.Of.noteOff
  split
  · exact { refl s with pipe := .single .noteOff, adsr := .single .gateOff, ad := .single .gateOff }
  · exact refl s

/-- The latch and the fifteen unit operations of a block (R490, R491). -/
theorem startBlock : Evolves cfg rates s (s.startBlock cfg) :=
  { refl s with
    pipe := .single .latch
    adsr := (((ReflTransGen.single (.setAttack _)).tail (.setDecay _)).tail (.setSustain _)).tail (.setRelease _)
    ad := (ReflTransGen.single (.setAttack _)).tail (.setDecay _)
    lfo := ((ReflTransGen.single (.setFreq _)).tail (.setWave _)).tail (.setVar _)
    flt := ((ReflTransGen.single (.setCutoff _)).tail (.setRes _)).tail (.setWet _)
    rev := .single (.setAmount _)
    dly := .single (.setAmount _)
    cho := .single (.setAmount _) }

theorem tickModulators : Evolves cfg rates s (s.tickModulators cfg) :=
  { refl s with
    adsr := .single .process
    ad := .single .process
    lfo := .single .process
    pipe := .single (.adLevel s.ad) }

theorem tickSelect : Evolves cfg rates s (s.tickSelect cfg) := by
  have select : ∀ t : State.Of N, Evolves cfg rates t
      { t with pipe := { t.pipe with selPrev := BitVec.ofNat 4 s.pipe.pl.sel.index } } :=
    fun t => { refl t with pipe := .single (.select _) }
  unfold State.Of.tickSelect
  dsimp only
  split
  · exact ((resetEngine s _).trans (select _)).trans (programEngine ..)
  · exact (select s).trans (programEngine ..)

theorem tickSilence (env : N) : Evolves cfg rates s (s.tickSilence cfg env) := by
  unfold State.Of.tickSilence
  dsimp only
  split
  · exact { refl s with dly := .single .reset, cho := .single .reset, pipe := .single (.silence _) }
  · exact { refl s with pipe := .single (.silence _) }

theorem tickEffects (x : Stereo N) : Evolves cfg rates s (s.tickEffects cfg x) :=
  { refl s with
    flt := (ReflTransGen.single (.process .left _)).tail (.process .right _)
    dly := (ReflTransGen.single (.process .left _)).tail (.process .right _)
    cho := (ReflTransGen.single (.process .left _)).tail (.process .right _)
    rev := (ReflTransGen.single (.process .left _)).tail (.process .right _) }

/-- One sample tick, its seven steps in order (R500). -/
theorem tick : Evolves cfg rates s (s.tick cfg) := by
  have source : Evolves cfg rates s (s.tickSource cfg) :=
    ((tickModulators s).trans (tickSelect _)).trans (engineAdvance _ _)
  exact ((source.trans (tickSilence _ _)).trans (tickEffects _ _)).emit _

theorem runFrames (n : Nat) : Evolves cfg rates s (State.Of.runFrames cfg n s) := by
  induction n generalizing s with
  | zero => exact refl s
  | succ n ih => exact (tick s).trans (ih _)

theorem fullReset : Evolves cfg rates s (s.fullReset cfg) where
  e0 := (ReflTransGen.single (.regs (.powerOn 0))).tail .reset
  e1 := (ReflTransGen.single (.regs (.powerOn 1))).tail .reset
  e2 := (ReflTransGen.single (.regs (.powerOn 2))).tail .reset
  e3 := (ReflTransGen.single (.regs (.powerOn 3))).tail .reset
  e4 := (ReflTransGen.single (.regs (.powerOn 4))).tail .reset
  e5 := (ReflTransGen.single (.regs (.powerOn 5))).tail .reset
  e6 := (ReflTransGen.single (.regs (.powerOn 6))).tail .reset
  e7 := (ReflTransGen.single (.regs (.powerOn 7))).tail .reset
  e8 := (ReflTransGen.single (.regs (.powerOn 8))).tail .reset
  e9 := (ReflTransGen.single (.regs (.powerOn 9))).tail .reset
  e10 := (ReflTransGen.single (.regs (.powerOn 10))).tail .reset
  e11 := (ReflTransGen.single (.regs (.powerOn 11))).tail .reset
  adsr := .single .powerOn
  ad := .single .powerOn
  lfo := .single .powerOn
  flt := .single .powerOn
  dly := .single .powerOn
  cho := .single .powerOn
  rev := .single .powerOn
  pipe := .single .powerOn

end Evolves

/-! ### The operations and the step -/

/-- An operation sets a sample rate only when its operation code is 01. -/
theorem Effect.evolves {i : Instr} {s u : State.Of N} (h : Effect cfg s i u) :
    Evolves cfg (opField (encode i) = 0x01#8) s u := by
  cases h with
  | e0 _ h => exact { Evolves.refl s with e0 := .single h }
  | e1 _ h => exact { Evolves.refl s with e1 := .single h }
  | e2 _ h => exact { Evolves.refl s with e2 := .single h }
  | e3 _ h => exact { Evolves.refl s with e3 := .single h }
  | e4 _ h => exact { Evolves.refl s with e4 := .single h }
  | e5 _ h => exact { Evolves.refl s with e5 := .single h }
  | e6 _ h => exact { Evolves.refl s with e6 := .single h }
  | e7 _ h => exact { Evolves.refl s with e7 := .single h }
  | e8 _ h => exact { Evolves.refl s with e8 := .single h }
  | e9 _ h => exact { Evolves.refl s with e9 := .single h }
  | e10 _ h => exact { Evolves.refl s with e10 := .single h }
  | e11 _ h => exact { Evolves.refl s with e11 := .single h }
  | adsr _ h => exact { Evolves.refl s with adsr := .single h }
  | ad _ h => exact { Evolves.refl s with ad := .single h }
  | lfo _ h => exact { Evolves.refl s with lfo := .single h }
  | flt _ h => exact { Evolves.refl s with flt := .single h }
  | dly _ h => exact { Evolves.refl s with dly := .single h }
  | cho _ h => exact { Evolves.refl s with cho := .single h }
  | rev _ h => exact { Evolves.refl s with rev := .single h }
  | fullReset => exact .fullReset s
  | paramSet i v _ => exact { Evolves.refl s with pipe := .single (.setParam _ _) }
  | paramSetOut i v => exact .refl s
  | paramGet i => exact .refl s
  | noteOn note vel => exact .noteOn s _
  | noteOnVelocityZero note vel => exact .noteOff s _
  | noteOff note => exact .noteOff s _
  | processBlock n => exact (Evolves.startBlock s).trans (.runFrames _ _)

/-- The next command is a `SET_SR` of some unit (`OP` 01, R113). -/
def State.Of.setsRate (s : State.Of N) : Prop := ∃ cw rest, s.cmds = cw :: rest ∧ opField cw = 0x01#8

theorem not_setsRate {s : State} (h : s.keepsRates) : ¬ s.setsRate := fun ⟨cw, rest, hcmds, hop⟩ => h cw rest hcmds hop

/-- In a step every unit goes through a sequence of its own operations; a sample rate is set only by a command whose
operation code is 01. -/
theorem stepIn_evolves {s t : State.Of N} (h : stepIn cfg s = .next t) : Evolves cfg s.setsRate s t := by
  rcases stepIn_cases h with rfl | ⟨cw, rest, hcmds, ⟨i, hdec, hexec⟩ | ⟨hi, lo, rfl⟩⟩
  · exact .refl t
  · have hrates : (opField (encode i) = 0x01#8) = s.setsRate := by
      rw [opField_encode_of_decode hdec]
      exact propext ⟨fun hop => ⟨cw, rest, hcmds, hop⟩, fun ⟨cw', rest', hcmds', hop⟩ => by
        cases hcmds.symm.trans hcmds'
        exact hop⟩
    obtain ⟨u, hi, lo, heffect, rfl⟩ := execIn_effect hexec
    exact ((Evolves.withCmds s rest).trans (hrates ▸ heffect.evolves)).respond hi lo
  · exact (Evolves.withCmds s rest).respond hi lo

end Sys2Proof.Machine

/-! Every step keeps the buffers, the cursors, the counters and the note state in shape (R59, R82, R84, R548), in every
admissible configuration: each operation of a unit keeps the unit's shape, and a step is a sequence of them. -/

namespace Sys2Proof.Machine

section
variable {N : Type} {cfg : Config.Parameters N} {rates : Prop}

/-- What writes to the control fields, reset and `PRODUCE` keep, every operation of an engine keeps. -/
theorem EngineMeaning.Op.keeps {E : Type} {m : EngineMeaning E N} {P : E → Prop}
    (hregs : ∀ e r, P e → P (m.withRegs e r)) (hreset : ∀ e, P e → P (m.reset e))
    (hproduce : ∀ e, P e → P (m.produce e)) (a b : E) (h : m.Op cfg rates a b) (ha : P a) : P b := by
  cases h with
  | regs _ => exact hregs a _ ha
  | reset => exact hreset a ha
  | produce => exact hproduce a ha

/-- Any operations of the engine keep it. -/
theorem EngineMeaning.ops_keep {E : Type} {m : EngineMeaning E N} (P : E → Prop) (hregs : ∀ e r, P e → P (m.withRegs e r))
    (hreset : ∀ e, P e → P (m.reset e)) (hproduce : ∀ e, P e → P (m.produce e)) {e e' : E}
    (h : Relation.ReflTransGen (m.Op cfg rates) e e') (he : P e) : P e' :=
  keeps_of_sequence (EngineMeaning.Op.keeps hregs hreset hproduce) h he

/-- What holds of each channel still holds after one of them is replaced by a value it holds of. -/
theorem forall_stereoGet_stereoSet {α : Type} {P : Chan → α → Prop} {x : Stereo α} (h : ∀ d, P d (stereoGet x d))
    (c : Chan) {v : α} (hv : P c v) : ∀ d, P d (stereoGet (stereoSet x c v) d) := by
  intro d
  cases c <;> cases d
  · exact hv
  · exact h .right
  · exact h .left
  · exact hv

variable [DecidableEq N]

/-- The shape of a channel of REV, line by line. -/
theorem ReverbChannel.wellShaped_iff {c : Chan} {u : ReverbChannel N} : u.wellShaped cfg c = true ↔
    u.comb0.wellShaped cfg (revCombLen cfg c 0) = true ∧ u.comb1.wellShaped cfg (revCombLen cfg c 1) = true ∧
      u.comb2.wellShaped cfg (revCombLen cfg c 2) = true ∧ u.comb3.wellShaped cfg (revCombLen cfg c 3) = true ∧
      u.ap0.wellShaped cfg (revApLen cfg c 0) = true ∧ u.ap1.wellShaped cfg (revApLen cfg c 1) = true := by
  simp only [ReverbChannel.wellShaped, Bool.and_eq_true, and_assoc]

/-! ## The engines with buffers or counters (R45, R49, R50) -/

section
variable (hcfg : cfg.Admissible)
include hcfg

theorem PluckedString.reset_wellShaped (e : PluckedString N) : (e.reset cfg).wellShaped cfg = true := by
  simp [PluckedString.wellShaped, PluckedString.reset, memory_wf_nil, strCap_pos hcfg, strStrikePeriod_pos hcfg]

theorem PwmOsc.reset_wellShaped (e : PwmOsc N) : (e.reset cfg).wellShaped cfg = true := by
  simp [PwmOsc.wellShaped, PwmOsc.reset, pwmDriftPeriod_pos hcfg]

/-! ## The effects (R55 to R57) -/

theorem DelayChannel.clear_wellShaped : (DelayChannel.clear cfg).wellShaped cfg = true := by
  simp [DelayChannel.wellShaped, DelayChannel.clear, memory_wf_nil, dlyCap_pos hcfg]

theorem ChorusChannel.clear_wellShaped : (ChorusChannel.clear cfg).wellShaped cfg = true := by
  simp [ChorusChannel.wellShaped, ChorusChannel.clear, memory_wf_nil, choCap_pos hcfg]

theorem ReverbChannel.clear_wellShaped (c : Chan) :
    (ReverbChannel.clear : ReverbChannel N).wellShaped cfg c = true := by
  simp [ReverbChannel.wellShaped, ReverbChannel.clear, line_clear_wellShaped, revCombLen_pos hcfg, revApLen_pos hcfg]

/-- Every operation of DLY keeps its lines in canonical form and its cursors inside (R425, R426). -/
theorem Delay.Op.wellShaped (u v : Delay N) (h : u.Op cfg v) (hu : ∀ c, (stereoGet u.ch c).wellShaped cfg = true) :
    ∀ c, (stereoGet v.ch c).wellShaped cfg = true := by
  cases h with
  | reset | powerOn => exact Chan.forall_iff.2 ⟨DelayChannel.clear_wellShaped hcfg, DelayChannel.clear_wellShaped hcfg⟩
  | setAmount v => exact hu
  | process c x => exact Chan.forall_iff.2 (delay_process_wellShaped (dlyCap_pos hcfg) c x (hu .left) (hu .right))

/-- Every operation of CHO keeps its lines in canonical form and its cursors inside (R447, R448). -/
theorem Chorus.Op.wellShaped (u v : Chorus N) (h : u.Op cfg v) (hu : ∀ c, (stereoGet u.ch c).wellShaped cfg = true) :
    ∀ c, (stereoGet v.ch c).wellShaped cfg = true := by
  cases h with
  | reset | powerOn => exact Chan.forall_iff.2 ⟨ChorusChannel.clear_wellShaped hcfg, ChorusChannel.clear_wellShaped hcfg⟩
  | setAmount v => exact hu
  | process c x =>
    obtain ⟨hbuf, -⟩ := Bool.and_eq_true_iff.1 (hu c)
    exact forall_stereoGet_stereoSet (P := fun _ ch => ChorusChannel.wellShaped cfg ch = true) hu c
      (Bool.and_eq_true_iff.2 ⟨memWrite_wf hbuf (choCap_pos hcfg) _ _,
        Eq.mpr Nat.blt_eq (cursorNext_lt (choCap_pos hcfg) _)⟩)

/-- Every operation of REV keeps its six lines a channel in shape (R464 to R467). -/
theorem Reverb.Op.wellShaped (u v : Reverb N) (h : u.Op cfg v) (hu : ∀ c, (stereoGet u.ch c).wellShaped cfg c = true) :
    ∀ c, (stereoGet v.ch c).wellShaped cfg c = true := by
  cases h with
  | reset | powerOn =>
    exact Chan.forall_iff.2 ⟨ReverbChannel.clear_wellShaped hcfg _, ReverbChannel.clear_wellShaped hcfg _⟩
  | setAmount v => exact hu
  | process c x =>
    obtain ⟨hc0, hc1, hc2, hc3, ha0, ha1⟩ := ReverbChannel.wellShaped_iff.1 (hu c)
    exact forall_stereoGet_stereoSet (P := fun d ch => ReverbChannel.wellShaped cfg d ch = true) hu c <|
      ReverbChannel.wellShaped_iff.2
        ⟨Line.push_wellShaped (revCombLen_pos hcfg c 0) hc0 _, Line.push_wellShaped (revCombLen_pos hcfg c 1) hc1 _,
          Line.push_wellShaped (revCombLen_pos hcfg c 2) hc2 _, Line.push_wellShaped (revCombLen_pos hcfg c 3) hc3 _,
          Line.push_wellShaped (revApLen_pos hcfg c 0) ha0 _, Line.push_wellShaped (revApLen_pos hcfg c 1) ha1 _⟩

end

/-! ## The pipeline (R34, R35) -/

theorem Pipe.wellShaped_iff {p : Pipe N} : p.wellShaped cfg = true ↔
    (p.selPrev.toNat ≤ 11 ∨ p.selPrev = 15#4) ∧ (p.gate = true → p.hasNote = true) ∧
      (p.hasNote = true → p.noteFreq = cfg.ftz (notefreq cfg p.heldNote)) := by
  simp only [Pipe.wellShaped, Bool.and_eq_true, Bool.or_eq_true, Nat.ble_eq, decide_eq_true_eq, Bool.not_eq_true',
    ← Bool.not_eq_true, imp_iff_not_or, and_assoc]

/-- Every write to PIPE keeps `sel_prev` a code and the note state consistent (R493, R494, R503, R570). -/
theorem Pipe.Op.wellShaped (p q : Pipe N) (h : p.Op cfg q) (hp : p.wellShaped cfg = true) : q.wellShaped cfg = true := by
  rw [Pipe.wellShaped_iff] at hp ⊢
  obtain ⟨hsel, hgate, hfreq⟩ := hp
  cases h with
  | setParam i v | latch | adLevel u | silence b => exact ⟨hsel, hgate, hfreq⟩
  | noteOn n => exact ⟨hsel, fun _ => rfl, fun _ => rfl⟩
  | noteOff => exact ⟨hsel, nofun, hfreq⟩
  | select k =>
    have hcode : (BitVec.ofNat 4 k.index).toNat ≤ 11 := by cases k <;> decide
    exact ⟨.inl hcode, hgate, hfreq⟩
  | powerOn => exact ⟨.inr rfl, nofun, nofun⟩

/-! ## The state -/

/-- The shape of the state, unit by unit. -/
theorem State.Of.wellShaped_iff {s : State.Of N} : s.wellShaped cfg = true ↔
    s.e10.wellShaped cfg = true ∧ s.e6.wellShaped = true ∧ s.e11.wellShaped cfg = true ∧
      (∀ c, (stereoGet s.dly.ch c).wellShaped cfg = true) ∧ (∀ c, (stereoGet s.cho.ch c).wellShaped cfg = true) ∧
      (∀ c, (stereoGet s.rev.ch c).wellShaped cfg c = true) ∧ s.pipe.wellShaped cfg = true := by
  simp only [State.Of.wellShaped, Bool.and_eq_true, and_assoc, Chan.forall_iff, stereoGet_left, stereoGet_right]

/-- A sequence of the units' operations keeps the state in shape. -/
theorem Evolves.wellShaped (hcfg : cfg.Admissible) {s t : State.Of N} (h : Evolves cfg rates s t)
    (hs : s.wellShaped cfg = true) : t.wellShaped cfg = true := by
  obtain ⟨he10, he6, he11, hdly, hcho, hrev, hpipe⟩ := State.Of.wellShaped_iff.1 hs
  refine State.Of.wellShaped_iff.2 ⟨?_, ?_, ?_, ?_, ?_, ?_, ?_⟩
  · exact EngineMeaning.ops_keep (fun e => PluckedString.wellShaped cfg e = true) (fun _ _ he => he)
      (fun e _ => e.reset_wellShaped hcfg) (fun _ he => PluckedString.produce_wellShaped hcfg he) h.e10 he10
  · exact EngineMeaning.ops_keep (fun e => FmPair.wellShaped e = true) (fun _ _ he => he) (fun _ _ => rfl)
      (fun _ he => FmPair.produce_wellShaped hcfg he) h.e6 he6
  · exact EngineMeaning.ops_keep (fun e => PwmOsc.wellShaped cfg e = true) (fun _ _ he => he)
      (fun e _ => e.reset_wellShaped hcfg) (fun _ he => PwmOsc.produce_wellShaped hcfg he) h.e11 he11
  · exact keeps_of_sequence (P := fun u => ∀ c, (stereoGet u.ch c).wellShaped cfg = true)
      (Delay.Op.wellShaped hcfg) h.dly hdly
  · exact keeps_of_sequence (P := fun u => ∀ c, (stereoGet u.ch c).wellShaped cfg = true)
      (Chorus.Op.wellShaped hcfg) h.cho hcho
  · exact keeps_of_sequence (P := fun u => ∀ c, (stereoGet u.ch c).wellShaped cfg c = true)
      (Reverb.Op.wellShaped hcfg) h.rev hrev
  · exact keeps_of_sequence Pipe.Op.wellShaped h.pipe hpipe

end

/-- Settles O58: a step, and a block, is a sequence of the units' operations, and each of those keeps its unit's shape. The
first clause is the third one in the reference configuration. The bound `MAX_FRAMES` is not needed: any number of ticks
keeps the shape. -/
theorem everyStepKeepsTheShape : Obligations.EveryStepKeepsTheShape := by
  refine ⟨fun M s t _ hs hstep => ?_, fun N _ cfg n s hcfg _ hs => ?_, fun N _ cfg s t hcfg _ hs hstep => ?_⟩
  · exact (stepIn_evolves ((stepIn_reference s).trans hstep)).wellShaped Config.reference_admissible hs
  · exact ((Evolves.startBlock (rates := False) s).trans (.runFrames _ n)).wellShaped hcfg hs
  · exact (stepIn_evolves hstep).wellShaped hcfg hs

end Sys2Proof.Machine

/-! What an operation leaves unchanged: the other units' state (R30, R60), the status bits (R37), the parameters and the
audio port (R32, R117). -/

namespace Sys2Proof.Machine

/-! ## The units (R30) -/

/-- Settles O31: an operation that is none of PIPE's changes the one unit its command word names. -/
theorem unitsOwnTheirState : Obligations.UnitsOwnTheirState := by
  intro i s t h
  obtain ⟨u, hi, lo, heffect, rfl⟩ := exec_effect h
  cases heffect with
  | e0 hu | e1 hu | e2 hu | e3 hu | e4 hu | e5 hu | e6 hu | e7 hu | e8 hu | e9 hu | e10 hu | e11 hu | adsr hu | ad hu
  | lfo hu | flt hu | dly hu | cho hu | rev hu => simp [mayTouch, hu]
  | fullReset | paramSet | paramSetOut | paramGet | noteOn | noteOnVelocityZero | noteOff | processBlock =>
    simp [mayTouch, encode]

/-! ## The note events and the frames -/

section
variable {N : Type} (cfg : Config.Parameters N) (s : State.Of N)

theorem State.Of.noteOn_pipe_p (n : BitVec 7) : (s.noteOn cfg n).pipe.p = s.pipe.p := by
  unfold State.Of.noteOn
  dsimp only
  split <;> simp

theorem State.Of.noteOn_pipe_wasSilent (n : BitVec 7) : (s.noteOn cfg n).pipe.wasSilent = s.pipe.wasSilent := by
  unfold State.Of.noteOn
  dsimp only
  split <;> simp

theorem State.Of.noteOn_audio (n : BitVec 7) : (s.noteOn cfg n).audio = s.audio := by
  unfold State.Of.noteOn
  dsimp only
  split <;> simp

theorem State.Of.noteOff_pipe_p (n : BitVec 7) : (s.noteOff cfg n).pipe.p = s.pipe.p := by
  unfold State.Of.noteOff
  split <;> rfl

theorem State.Of.noteOff_pipe_hasNote (n : BitVec 7) : (s.noteOff cfg n).pipe.hasNote = s.pipe.hasNote := by
  unfold State.Of.noteOff
  split <;> rfl

theorem State.Of.noteOff_pipe_wasSilent (n : BitVec 7) : (s.noteOff cfg n).pipe.wasSilent = s.pipe.wasSilent := by
  unfold State.Of.noteOff
  split <;> rfl

theorem State.Of.noteOff_audio (n : BitVec 7) : (s.noteOff cfg n).audio = s.audio := by
  unfold State.Of.noteOff
  split <;> rfl

variable [DecidableEq N]

/-- Of PIPE's fields a sample tick writes the AD level, the last selected engine and the silence flag (R501, R503, R507). -/
theorem State.Of.tick_pipe : ∃ level code silent,
    (s.tick cfg).pipe = { s.pipe with adLevel := level, selPrev := code, wasSilent := silent } := by
  simp only [State.Of.tick, State.Of.tickSource, emit_pipe, tickEffects_pipe, tickSilence_pipe, engineAdvance_pipe,
    tickSelect_pipe, tickModulators_pipe]
  exact ⟨_, _, _, rfl⟩

/-- The same of any number of ticks. -/
theorem State.Of.runFrames_pipe (n : Nat) : ∃ level code silent,
    (State.Of.runFrames cfg n s).pipe = { s.pipe with adLevel := level, selPrev := code, wasSilent := silent } := by
  induction n generalizing s with
  | zero => exact ⟨_, _, _, rfl⟩
  | succ n ih =>
    obtain ⟨_, _, _, htick⟩ := tick_pipe cfg s
    obtain ⟨level, code, silent, hrest⟩ := ih (s.tick cfg)
    rw [htick] at hrest
    exact ⟨level, code, silent, hrest⟩

/-- A block writes the latch besides (R490). -/
theorem State.Of.processBlock_pipe (n : Nat) : ∃ level code silent,
    (State.Of.runFrames cfg n (s.startBlock cfg)).pipe =
      { s.pipe with pl := latchOf cfg s.pipe.p, adLevel := level, selPrev := code, wasSilent := silent } := by
  have hblock := runFrames_pipe cfg (s.startBlock cfg) n
  rwa [startBlock_pipe] at hblock

end

/-! ## The parameters and the audio port (R32, R117, R489) -/

/-- Settles O45: of the six operations of PIPE only `PARAM_SET` writes the parameters, and only `PROCESS_BLOCK`, which emits
frames, the audio port. The bound on the block's length is not needed. -/
theorem onlyTheHostWritesParameters : Obligations.OnlyTheHostWritesParameters := by
  intro M i s t _ h
  obtain ⟨u, hi, lo, heffect, rfl⟩ := exec_effect h
  rw [State.Of.respond_pipe, State.Of.respond_audio]
  cases heffect with
  | e0 | e1 | e2 | e3 | e4 | e5 | e6 | e7 | e8 | e9 | e10 | e11 | adsr | ad | lfo | flt | dly | cho | rev | paramSetOut
  | paramGet => exact ⟨fun _ => rfl, fun _ => rfl⟩
  | fullReset => exact ⟨fun _ => State.Of.fullReset_pipe_p _ s, fun _ => State.Of.fullReset_audio _ s⟩
  | paramSet => exact ⟨nofun, fun _ => rfl⟩
  | noteOn note => exact ⟨fun _ => State.Of.noteOn_pipe_p _ s _, fun _ => State.Of.noteOn_audio _ s _⟩
  | noteOnVelocityZero note | noteOff note =>
    exact ⟨fun _ => State.Of.noteOff_pipe_p _ s _, fun _ => State.Of.noteOff_audio _ s _⟩
  | processBlock n =>
    obtain ⟨_, _, _, hblock⟩ := State.Of.processBlock_pipe Config.reference s (countOf n)
    exact ⟨fun _ => by rw [hblock], nofun⟩

/-! ## The status bits (R37) -/

section
variable {i : Instr} {s t : State}

theorem Adsr.setSr_st (cfg : Config.Parameters NUM) (u : Adsr NUM) (v : NUM) : (u.setSr cfg v).st = u.st := by
  unfold Adsr.setSr
  split <;> rfl

theorem Ad.setSr_st (cfg : Config.Parameters NUM) (u : Ad NUM) (v : NUM) : (u.setSr cfg v).st = u.st := by
  unfold Ad.setSr
  split <;> rfl

/-- An operation of another unit leaves ADSR as it was. -/
theorem exec_adsr (h : exec i s = .next t) (hi : mayTouch 0x10#8 i = false) : t.adsr = s.adsr := by
  obtain ⟨-, -, -, -, -, -, -, -, -, -, -, -, hadsr, -⟩ := unitsOwnTheirState i s t h
  exact hadsr hi

/-- An operation of another unit leaves AD as it was. -/
theorem exec_ad (h : exec i s = .next t) (hi : mayTouch 0x11#8 i = false) : t.ad = s.ad := by
  obtain ⟨-, -, -, -, -, -, -, -, -, -, -, -, -, had, -⟩ := unitsOwnTheirState i s t h
  exact had hi

/-- ADSR's setters leave the stage; PIPE's parameter operations leave ADSR. -/
theorem exec_adsr_st (h : exec i s = .next t) (hi : writesAdsrStage i = false) : t.adsr.st = s.adsr.st := by
  cases i with
  | adsrReset | adsrGateOn | adsrGateOff | adsrProcess | pipeFullReset | pipeNoteOn | pipeNoteOff | pipeProcessBlock =>
    cases hi
  | adsrSetSr v =>
    obtain rfl := done_eq_next.1 h
    exact Adsr.setSr_st _ _ _
  | adsrSetAttack v | adsrSetDecay v | adsrSetSustain v | adsrSetRelease v =>
    obtain rfl := done_eq_next.1 h
    rfl
  | pipeParamSet i v =>
    obtain rfl := done_eq_next.1 h
    split <;> rfl
  | pipeParamGet i =>
    obtain rfl := doneWith_eq_next.1 h
    rfl
  | _ => rw [exec_adsr h (by simp [mayTouch, encode])]

/-- AD's setters leave the stage; PIPE's parameter operations leave AD. -/
theorem exec_ad_st (h : exec i s = .next t) (hi : writesAdStage i = false) : t.ad.st = s.ad.st := by
  cases i with
  | adReset | adGateOn | adGateOff | adProcess | pipeFullReset | pipeNoteOn | pipeNoteOff | pipeProcessBlock => cases hi
  | adSetSr v =>
    obtain rfl := done_eq_next.1 h
    exact Ad.setSr_st _ _ _
  | adSetAttack v | adSetDecay v =>
    obtain rfl := done_eq_next.1 h
    rfl
  | pipeParamSet i v =>
    obtain rfl := done_eq_next.1 h
    split <;> rfl
  | pipeParamGet i =>
    obtain rfl := doneWith_eq_next.1 h
    rfl
  | _ => rw [exec_ad h (by simp [mayTouch, encode])]

/-- The flags of PIPE and who writes them: the note events, the block and the full reset. -/
theorem exec_pipe_flags (h : exec i s = .next t) :
    (writesGate i = false → t.pipe.gate = s.pipe.gate) ∧ (writesHasNote i = false → t.pipe.hasNote = s.pipe.hasNote) ∧
      (writesWasSilent i = false → t.pipe.wasSilent = s.pipe.wasSilent) := by
  obtain ⟨u, hi, lo, heffect, rfl⟩ := exec_effect h
  rw [State.Of.respond_pipe]
  cases heffect with
  | e0 | e1 | e2 | e3 | e4 | e5 | e6 | e7 | e8 | e9 | e10 | e11 | adsr | ad | lfo | flt | dly | cho | rev | paramSet
  | paramSetOut | paramGet => exact ⟨fun _ => rfl, fun _ => rfl, fun _ => rfl⟩
  | fullReset => exact ⟨nofun, nofun, nofun⟩
  | noteOn note => exact ⟨nofun, nofun, fun _ => State.Of.noteOn_pipe_wasSilent _ s _⟩
  | noteOnVelocityZero note => exact ⟨nofun, nofun, fun _ => State.Of.noteOff_pipe_wasSilent _ s _⟩
  | noteOff note =>
    exact ⟨nofun, fun _ => State.Of.noteOff_pipe_hasNote _ s _, fun _ => State.Of.noteOff_pipe_wasSilent _ s _⟩
  | processBlock n =>
    obtain ⟨_, _, _, hblock⟩ := State.Of.processBlock_pipe Config.reference s (countOf n)
    exact ⟨fun _ => by rw [hblock], fun _ => by rw [hblock], nofun⟩

end

/-- Settles O30: the stage of an envelope by the setters of its unit, the flags of PIPE by the effect of each operation. The
bound on the block's length is not needed. -/
theorem statusBitsChangeOnlyByTheirWriters : Obligations.StatusBitsChangeOnlyByTheirWriters :=
  fun _ _ _ _ _ h => ⟨exec_adsr_st h, exec_ad_st h, exec_pipe_flags h⟩

end Sys2Proof.Machine

/-! An unselected engine neither matters nor changes (R60, R503): replacing engine `j` commutes with every part of a
sample tick that has another engine selected. -/

namespace Sys2Proof.Machine

/-- The end of step 3 of a tick: engine `k` is noted as the last selected one and programmed (R503). -/
def State.selectEngine (cfg : Config.Parameters NUM) (s : State) (k : Engine) : State :=
  let u := { s with pipe := { s.pipe with selPrev := BitVec.ofNat 4 k.index } }
  u.programEngine cfg u.pipe.frequency u.pipe.pl.harm u.pipe.pl.timb u.pipe.pl.morph k

theorem State.tickSelect_eq (cfg : Config.Parameters NUM) (s : State) :
    s.tickSelect cfg =
      if engineChanged s.pipe s.pipe.pl.sel && cfg.resetOnSelect
      then State.selectEngine cfg (s.resetEngine cfg s.pipe.pl.sel) s.pipe.pl.sel
      else s.selectEngine cfg s.pipe.pl.sel := by
  unfold State.Of.tickSelect
  dsimp only
  split <;> rfl

section
variable (cfg : Config.Parameters NUM) (s src : State) (j : Engine)

theorem State.respond_copyEngine (hi lo : BitVec 32) :
    (s.copyEngine j src).respond hi lo = (s.respond hi lo).copyEngine j src := by
  cases j <;> rfl

theorem State.emit_copyEngine (y : Stereo NUM) : (s.copyEngine j src).emit y cfg = (s.emit y cfg).copyEngine j src := by
  cases j <;> rfl

theorem State.startBlock_copyEngine : (s.copyEngine j src).startBlock cfg = (s.startBlock cfg).copyEngine j src := by
  cases j <;> rfl

theorem State.tickModulators_copyEngine :
    (s.copyEngine j src).tickModulators cfg = (s.tickModulators cfg).copyEngine j src := by
  cases j <;> rfl

theorem State.tickSilence_copyEngine (env : NUM) :
    (s.copyEngine j src).tickSilence cfg env = (s.tickSilence cfg env).copyEngine j src := by
  unfold State.Of.tickSilence
  rw [copyEngine_pipe, copyEngine_dly, copyEngine_cho]
  split <;> cases j <;> rfl

theorem State.tickEffects_copyEngine (x : Stereo NUM) :
    (s.copyEngine j src).tickEffects cfg x = (s.tickEffects cfg x).copyEngine j src := by
  cases j <;> rfl

theorem State.afterReverb_copyEngine (x : Stereo NUM) :
    (s.copyEngine j src).afterReverb cfg x = s.afterReverb cfg x := by
  cases j <;> rfl

/-! ### The selected engine is another one -/

variable {j} {k : Engine} (hkj : k ≠ j)
include hkj

theorem State.resetEngine_copyEngine :
    (s.copyEngine j src).resetEngine cfg k = (s.resetEngine cfg k).copyEngine j src := by
  cases j <;> cases k <;> first | exact absurd rfl hkj | rfl

theorem State.selectEngine_copyEngine :
    (s.copyEngine j src).selectEngine cfg k = (s.selectEngine cfg k).copyEngine j src := by
  cases j <;> cases k <;> first | exact absurd rfl hkj | rfl

theorem State.engineAdvance_copyEngine :
    (s.copyEngine j src).engineAdvance cfg k = (s.engineAdvance cfg k).copyEngine j src := by
  cases j <;> cases k <;> first | exact absurd rfl hkj | rfl

theorem State.engineOut_copyEngine : (s.copyEngine j src).engineOut cfg k = s.engineOut cfg k := by
  cases j <;> cases k <;> first | exact absurd rfl hkj | rfl

end

section
variable (cfg : Config.Parameters NUM) {s : State} (src : State) {j : Engine} (hsel : s.pipe.pl.sel ≠ j)
include hsel

theorem State.tickSelect_copyEngine : (s.copyEngine j src).tickSelect cfg = (s.tickSelect cfg).copyEngine j src := by
  rw [tickSelect_eq, tickSelect_eq, copyEngine_pipe, resetEngine_copyEngine cfg s src hsel]
  split <;> exact selectEngine_copyEngine cfg _ src hsel

/-- The state of the tick when the selected engine is called. -/
theorem State.tickSelect_tickModulators_copyEngine :
    ((s.copyEngine j src).tickModulators cfg).tickSelect cfg = ((s.tickModulators cfg).tickSelect cfg).copyEngine j src := by
  rw [tickModulators_copyEngine]
  exact tickSelect_copyEngine cfg (s := s.tickModulators cfg) src hsel

/-- One sample tick neither reads nor writes an engine that is not selected. -/
theorem State.tick_copyEngine : (s.copyEngine j src).tick cfg = (s.tick cfg).copyEngine j src := by
  have hcalled : ((s.tickModulators cfg).tickSelect cfg).pipe.pl.sel ≠ j := by simpa using hsel
  have hsource : (s.copyEngine j src).tickSource cfg = (s.tickSource cfg).copyEngine j src := by
    simp only [State.Of.tickSource, tickSelect_tickModulators_copyEngine cfg src hsel, copyEngine_pipe,
      engineAdvance_copyEngine cfg _ src hcalled]
  have hscaled : (s.copyEngine j src).tickScaled cfg = s.tickScaled cfg := by
    simp only [State.Of.tickScaled, tickSelect_tickModulators_copyEngine cfg src hsel, copyEngine_pipe, copyEngine_adsr,
      copyEngine_lfo, engineOut_copyEngine cfg _ src hcalled]
  simp only [State.Of.tick, hsource, hscaled, copyEngine_adsr, tickSilence_copyEngine, tickEffects_copyEngine,
    afterReverb_copyEngine, emit_copyEngine]

/-- Nor do any number of ticks. -/
theorem State.runFrames_copyEngine (n : Nat) :
    State.Of.runFrames cfg n (s.copyEngine j src) = (State.Of.runFrames cfg n s).copyEngine j src := by
  induction n generalizing s with
  | zero => rfl
  | succ n ih =>
    have hnext : (s.tick cfg).pipe.pl.sel ≠ j := by
      obtain ⟨_, _, _, htick⟩ := State.Of.tick_pipe cfg s
      rwa [htick]
    simp only [State.Of.runFrames]
    rw [tick_copyEngine cfg src hsel, ih hnext]

end

/-- Settles O52: the block latches the selected engine, and every tick of it commutes with the replacement of another one.
The bound on the block's length is not needed. -/
theorem unselectedEngineDoesNotMatter : Obligations.UnselectedEngineDoesNotMatter := by
  intro M n s src t j _ hsel h
  obtain rfl := done_eq_next.1 h
  have hlatched : (s.startBlock Config.reference).pipe.pl.sel ≠ j := by
    rw [State.Of.startBlock_pipe]
    exact hsel
  refine done_eq_next.2 ?_
  rw [State.startBlock_copyEngine, State.runFrames_copyEngine _ _ hlatched, State.respond_copyEngine]

end Sys2Proof.Machine

/-! The ranges of words under one rounding (R8): a rounded number stays between the finite words it lies between. With it
the ranges that the updates of a phase, an envelope and a drift keep. -/

namespace Sys2Proof.NUM

open Config (binary32 binary32_orderAdmissible binary32_arithmeticAdmissible)

variable {v lo hi a b d t : NUM} {x y : ℚ}

/-! ## Between two finite words -/

protected theorem lt_of_le_of_lt {a b c : NUM} (h : a.le b = true) (h' : b.lt c = true) : a.lt c = true := by
  obtain ⟨hna, -, hab⟩ := (le_iff _ _).1 h
  obtain ⟨-, hnc, hbc⟩ := (lt_iff _ _).1 h'
  exact (lt_iff _ _).2 ⟨hna, hnc, hab.trans_lt hbc⟩

theorem value_zero : zero.value = 0 := binary32_arithmeticAdmissible.zero.2

theorem value_one : one.value = 1 := binary32_arithmeticAdmissible.one.2

theorem le_iff_value (ha : a.isFinite = true) (hb : b.isFinite = true) : a.le b = true ↔ a.value ≤ b.value :=
  binary32_orderAdmissible.le_value a b ha hb

/-- A word between two finite ones is a finite one, its value between theirs. -/
theorem within_iff (hlo : lo.isFinite = true) (hhi : hi.isFinite = true) :
    within lo hi v = true ↔ v.isFinite = true ∧ lo.value ≤ v.value ∧ v.value ≤ hi.value := by
  unfold within
  rw [Bool.and_eq_true]
  constructor
  · rintro ⟨hl, hh⟩
    have hv : v.isFinite = true := binary32_orderAdmissible.between lo v hi hlo hhi hl hh
    exact ⟨hv, (le_iff_value hlo hv).1 hl, (le_iff_value hv hhi).1 hh⟩
  · rintro ⟨hv, hl, hh⟩
    exact ⟨(le_iff_value hlo hv).2 hl, (le_iff_value hv hhi).2 hh⟩

/-- What a number between two finite words rounds to is between them. -/
theorem within_of_rounds (h : binary32.Rounds v (x : ℝ)) (hlo : lo.isFinite = true) (hhi : hi.isFinite = true)
    (hl : lo.value ≤ x) (hh : x ≤ hi.value) : within lo hi v = true :=
  Bool.and_eq_true_iff.2 ⟨(h.2 lo hlo).1 (by exact_mod_cast hl), (h.2 hi hhi).2 (by exact_mod_cast hh)⟩

theorem value_neg_one : one.neg.value = -1 :=
  (binary32_arithmeticAdmissible.neg one (by decide +kernel)).2.trans (congrArg (- ·) value_one)

theorem inBipolar_iff : v.inBipolar = true ↔ v.isFinite = true ∧ -1 ≤ v.value ∧ v.value ≤ 1 := by
  rw [inBipolar, within_iff (by decide +kernel) (by decide +kernel), value_neg_one, value_one]

/-! ## Numbers from 0 to a small bound -/

/-- The word is a number from 0 to `n`. -/
def UpTo (n : Nat) (v : NUM) : Prop := v.isFinite = true ∧ 0 ≤ v.value ∧ v.value ≤ n

theorem ofNat_units : ∀ n < 32, (ofNat n).isFinite = true ∧ (ofNat n).units = n * 2 ^ 149 := by decide +kernel

/-- The small integers are words. -/
theorem value_ofNat {n : Nat} (hn : n < 32) : (ofNat n).value = n := by
  rw [value_eq, (ofNat_units n hn).2, Int.cast_mul, Int.cast_pow, Int.cast_ofNat, Int.cast_natCast]
  exact mul_div_cancel_right₀ _ (by positivity)

theorem upTo_iff {n : Nat} (hn : n < 32) : v.UpTo n ↔ within zero (ofNat n) v = true := by
  rw [within_iff (by decide +kernel) (ofNat_units n hn).1, value_zero, value_ofNat hn]
  rfl

theorem upTo_of_rounds {n : Nat} (hn : n < 32) (h : binary32.Rounds v (x : ℝ)) (hl : 0 ≤ x) (hh : x ≤ n) : v.UpTo n :=
  (upTo_iff hn).2 (within_of_rounds h (by decide +kernel) (ofNat_units n hn).1 (value_zero.trans_le hl)
    (hh.trans (value_ofNat hn).ge))

theorem upTo_one_iff : v.UpTo 1 ↔ v.inUnit = true := upTo_iff (by decide)

theorem UpTo.add {m n : Nat} (ha : a.UpTo m) (hb : b.UpTo n) (h : m + n < 32) : (a.add b).UpTo (m + n) := by
  obtain ⟨hfa, hla, hha⟩ := ha
  obtain ⟨hfb, hlb, hhb⟩ := hb
  exact upTo_of_rounds h (add_rounds hfa hfb) (add_nonneg hla hlb) (by push_cast; exact add_le_add hha hhb)

theorem UpTo.mul {m n : Nat} (ha : a.UpTo m) (hb : b.UpTo n) (h : m * n < 32) : (a.mul b).UpTo (m * n) := by
  obtain ⟨hfa, hla, hha⟩ := ha
  obtain ⟨hfb, hlb, hhb⟩ := hb
  exact upTo_of_rounds h (mul_rounds hfa hfb) (mul_nonneg hla hlb)
    (by push_cast; exact mul_le_mul hha hhb hlb (Nat.cast_nonneg m))

/-- A quotient by a larger number is at most 1. -/
theorem UpTo.div {n : Nat} (ha : a.UpTo n) (hb : b.isFinite = true) (h0 : 0 < b.value) (hn : n ≤ b.value) :
    (a.div b).UpTo 1 := by
  obtain ⟨hfa, hla, hha⟩ := ha
  refine upTo_of_rounds (by decide) (div_rounds hfa hb h0.ne') (by positivity) ?_
  rw [Nat.cast_one, div_le_one h0]
  exact hha.trans hn

/-- A difference of at least 0. -/
theorem UpTo.sub {m n : Nat} (hn : n < 32) (ha : a.UpTo m) (hb : b.isFinite = true) (hle : b.value ≤ a.value)
    (h : (m : ℚ) ≤ n + b.value) : (a.sub b).UpTo n := by
  obtain ⟨hfa, -, hha⟩ := ha
  exact upTo_of_rounds hn (sub_rounds hfa hb) (sub_nonneg.2 hle) (by linarith)

/-! ## Draws, products and halves -/

/-- `2·d - 1` of a number in [0, 1] is in [-1, 1] (R163). -/
theorem bipolar_inBipolar (hd : d.UpTo 1) : ((two.mul d).sub one).inBipolar = true := by
  have htwo : two.UpTo 2 := (upTo_iff (by decide)).2 (by decide +kernel)
  obtain ⟨hf, hl, hh⟩ := htwo.mul hd (by decide)
  refine within_of_rounds (sub_rounds hf (by decide +kernel)) (by decide +kernel) (by decide +kernel) ?_ ?_
  · rw [value_neg_one, value_one]
    linarith
  · rw [value_one]
    push_cast at hh
    linarith

/-- A number not below 0 times one in [0, 1] is no larger. -/
theorem mul_within_of_inUnit (ha : a.inUnit = true) (hb : b.isFinite = true) (h0 : 0 ≤ b.value) :
    within zero b (a.mul b) = true := by
  obtain ⟨hf, hl, hh⟩ := upTo_one_iff.2 ha
  push_cast at hh
  exact within_of_rounds (mul_rounds hf hb) (by decide +kernel) hb (value_zero.trans_le (mul_nonneg hl h0))
    (mul_le_of_le_one_left h0 hh)

theorem half_within (hb : b.isFinite = true) (h0 : 0 ≤ b.value) : within zero b (b.div two) = true := by
  have htwo : two.value = 2 := value_ofNat (by decide)
  refine within_of_rounds (div_rounds hb (by decide +kernel) (by rw [htwo]; norm_num)) (by decide +kernel) hb ?_ ?_
  · rw [value_zero, htwo]
    positivity
  · rw [htwo]
    linarith

/-! ## The drift of E11 (R334)

The target minus the drift is rounded, and so is its product with the slew: the step could exceed the room left below 1 if
that room were not a word. Twice the greatest power of two below the room bounds the difference, and half of that the
product. -/

theorem nonneg_of_rounds (h : binary32.Rounds v (x : ℝ)) (hv : v.isFinite = true) (hx : 0 ≤ x) : 0 ≤ v.value :=
  value_zero.symm.trans_le
    ((le_iff_value (by decide +kernel) hv).1 ((h.2 zero (by decide +kernel)).1 (by exact_mod_cast value_zero.trans_le hx)))

theorem nonpos_of_rounds (h : binary32.Rounds v (x : ℝ)) (hv : v.isFinite = true) (hx : x ≤ 0) : v.value ≤ 0 :=
  ((le_iff_value hv (by decide +kernel)).1
    ((h.2 zero (by decide +kernel)).2 (by exact_mod_cast hx.trans_eq value_zero.symm))).trans_eq value_zero

theorem abs_value_le_of_rounds (h : binary32.Rounds v (x : ℝ)) (ha : a.isFinite = true) (hx : |x| ≤ a.value) :
    v.isFinite = true ∧ |v.value| ≤ a.value := by
  obtain ⟨hneg, hvalue⟩ : a.neg.isFinite = true ∧ a.neg.value = -a.value := binary32_arithmeticAdmissible.neg a ha
  obtain ⟨hl, hh⟩ := abs_le.1 hx
  have hv := (within_iff hneg ha).1 (within_of_rounds h hneg ha (hvalue.trans_le hl) hh)
  rw [hvalue] at hv
  exact ⟨hv.1, abs_le.2 hv.2⟩

/-- The word of `2^(1 - k)`. -/
def halving (k : Nat) : NUM := ofMag false ((128 - k) * 2 ^ 23)

theorem halving_units : ∀ k < 27, (halving k).isFinite = true ∧ (halving k).units = 2 ^ (150 - k) := by decide +kernel

theorem value_halving {k : Nat} (hk : k < 27) : (halving k).value = 2 * (1 / 2) ^ k := by
  have hsplit : (2 : ℚ) ^ (150 - k) * 2 ^ k = 2 ^ 150 := by rw [← pow_add, Nat.sub_add_cancel (by omega)]
  rw [value_eq, (halving_units k hk).2, Int.cast_pow, Int.cast_ofNat, div_pow, one_pow]
  field_simp
  linarith

/-- A rounded difference of at most `y`, times at most one half, is at most `y`. -/
theorem abs_mul_le (hq : binary32.Rounds b (x : ℝ)) (hx : |x| ≤ y) (hy : y = 0 ∨ (1 / 2) ^ 24 ≤ y) (hy2 : y ≤ 2)
    (ha : a.isFinite = true) (h0 : 0 ≤ a.value) (h1 : a.value ≤ 1 / 2) :
    (a.mul b).isFinite = true ∧ |(a.mul b).value| ≤ y := by
  rcases hy with rfl | hpos
  · obtain ⟨hfb, hvb⟩ := abs_value_le_of_rounds hq (a := zero) (by decide +kernel) (hx.trans_eq value_zero.symm)
    rw [value_zero, abs_nonpos_iff] at hvb
    obtain ⟨hf, hv⟩ := abs_value_le_of_rounds (mul_rounds ha hfb) (a := zero) (by decide +kernel)
      (by rw [hvb, mul_zero, abs_zero, value_zero])
    exact ⟨hf, hv.trans_eq value_zero⟩
  · obtain ⟨k, hlow, hhigh⟩ := exists_nat_pow_near_of_lt_one (x := y / 2) (y := 1 / 2) (by positivity) (by linarith)
      (by norm_num) (by norm_num)
    have hk : k < 26 := by
      by_contra hge
      have hsmall : (1 / 2 : ℚ) ^ k ≤ (1 / 2) ^ 26 := pow_le_pow_of_le_one (by norm_num) (by norm_num) (by omega)
      linarith
    obtain ⟨hfb, hvb⟩ := abs_value_le_of_rounds hq (halving_units k (by omega)).1
      (by rw [value_halving (by omega)]; linarith)
    rw [value_halving (by omega)] at hvb
    have hprod : |a.value * b.value| ≤ (halving (k + 1)).value := by
      rw [value_halving (by omega), abs_mul, abs_of_nonneg h0, pow_succ]
      calc a.value * |b.value| ≤ 1 / 2 * (2 * (1 / 2) ^ k) := mul_le_mul h1 hvb (abs_nonneg _) (by norm_num)
        _ = 2 * ((1 / 2) ^ k * (1 / 2)) := by ring
    obtain ⟨hf, hv⟩ := abs_value_le_of_rounds (mul_rounds ha hfb) (halving_units (k + 1) (by omega)).1 hprod
    rw [value_halving (by omega)] at hv
    exact ⟨hf, by linarith⟩

/-- Below 1 a word leaves room of at least 2^-24. -/
theorem room_above (hd : d.inBipolar = true) : 1 - d.value = 0 ∨ (1 / 2) ^ 24 ≤ 1 - d.value := by
  obtain ⟨hf, -, hh⟩ := inBipolar_iff.1 hd
  cases hle : one.le d with
  | true =>
    have := (le_iff_value (by decide +kernel) hf).1 hle
    rw [value_one] at this
    exact .inl (by linarith)
  | false =>
    have hlt := (lt_iff _ _).1 (lt_of_not_le (by decide +kernel) (isNaN_of_finite hf) hle)
    have hkey : (⟨0x3F7FFFFF#32⟩ : NUM).key + 1 = one.key := by decide +kernel
    have hpred : d.le ⟨0x3F7FFFFF#32⟩ = true := (le_iff _ _).2 ⟨isNaN_of_finite hf, by decide +kernel, by omega⟩
    have hvalue : (⟨0x3F7FFFFF#32⟩ : NUM).value = 1 - (1 / 2) ^ 24 := by
      rw [value_eq, show (⟨0x3F7FFFFF#32⟩ : NUM).units = (2 ^ 24 - 1) * 2 ^ 125 by decide +kernel]
      norm_num
    have := (le_iff_value hf (by decide +kernel)).1 hpred
    exact .inr (by linarith)

/-- Above -1 too. -/
theorem room_below (hd : d.inBipolar = true) : 1 + d.value = 0 ∨ (1 / 2) ^ 24 ≤ 1 + d.value := by
  obtain ⟨hf, hl, -⟩ := inBipolar_iff.1 hd
  cases hle : d.le one.neg with
  | true =>
    have := (le_iff_value hf (by decide +kernel)).1 hle
    rw [value_neg_one] at this
    exact .inl (by linarith)
  | false =>
    have hlt := (lt_iff _ _).1 (lt_of_not_le (isNaN_of_finite hf) (by decide +kernel) hle)
    have hkey : (⟨0xBF7FFFFF#32⟩ : NUM).key = one.neg.key + 1 := by decide +kernel
    have hsucc : (⟨0xBF7FFFFF#32⟩ : NUM).le d = true := (le_iff _ _).2 ⟨by decide +kernel, isNaN_of_finite hf, by omega⟩
    have hvalue : (⟨0xBF7FFFFF#32⟩ : NUM).value = (1 / 2) ^ 24 - 1 := by
      rw [value_eq, show (⟨0xBF7FFFFF#32⟩ : NUM).units = (1 - 2 ^ 24) * 2 ^ 125 by decide +kernel]
      norm_num
    have := (le_iff_value (by decide +kernel) hf).1 hsucc
    exact .inr (by linarith)

/-- A drift that moves towards its target by at most half the way stays in [-1, 1], every operation rounded (R334). -/
theorem drift_inBipolar (hd : d.inBipolar = true) (ht : t.inBipolar = true) (ha : a.isFinite = true) (h0 : 0 ≤ a.value)
    (h1 : a.value ≤ 1 / 2) : (d.add (a.mul (t.sub d))).inBipolar = true := by
  obtain ⟨hfd, hld, hhd⟩ := inBipolar_iff.1 hd
  obtain ⟨hft, hlt, hht⟩ := inBipolar_iff.1 ht
  have hq := sub_rounds hft hfd
  suffices hp : (a.mul (t.sub d)).isFinite = true ∧ -1 ≤ d.value + (a.mul (t.sub d)).value ∧
      d.value + (a.mul (t.sub d)).value ≤ 1 from
    within_of_rounds (add_rounds hfd hp.1) (by decide +kernel) (by decide +kernel) (value_neg_one.trans_le hp.2.1)
      (hp.2.2.trans_eq value_one.symm)
  have hfq : (t.sub d).isFinite = true := (abs_value_le_of_rounds hq (ofNat_units 2 (by decide)).1
    (by rw [value_ofNat (by decide), abs_le]; constructor <;> push_cast <;> linarith)).1
  rcases le_total d.value t.value with hle | hle
  · obtain ⟨hf, hp⟩ := abs_mul_le hq (y := 1 - d.value) (abs_le.2 ⟨by linarith, by linarith⟩) (room_above hd)
      (by linarith) ha h0 h1
    have hsign := nonneg_of_rounds (mul_rounds ha hfq) hf
      (mul_nonneg h0 (nonneg_of_rounds hq hfq (by linarith)))
    have := (abs_le.1 hp).2
    exact ⟨hf, by linarith, by linarith⟩
  · obtain ⟨hf, hp⟩ := abs_mul_le hq (y := 1 + d.value) (abs_le.2 ⟨by linarith, by linarith⟩) (room_below hd)
      (by linarith) ha h0 h1
    have hsign := nonpos_of_rounds (mul_rounds ha hfq) hf
      (mul_nonpos_of_nonneg_of_nonpos h0 (nonpos_of_rounds hq hfq (by linarith)))
    have := (abs_le.1 hp).1
    exact ⟨hf, by linarith, by linarith⟩

end Sys2Proof.NUM

/-! Every operation of a unit keeps the unit's control registers, phases, levels and drifts in their ranges (R38 to R59). -/

namespace Sys2Proof.Machine

open Relation

variable {rates : Prop}

theorem zero_inPhase : NUM.zero.inPhase = true := by decide +kernel

theorem fill_zero_inPhase (n : Nat) : (Bank.fill n NUM.zero).inPhase = true := by
  simp [Bank.inPhase, Bank.fill, zero_inPhase]

theorem zero_inUnit : NUM.zero.inUnit = true := by decide +kernel

theorem one_inUnit : NUM.one.inUnit = true := by decide +kernel

theorem zero_inTime : NUM.zero.inTime = true := by decide +kernel

theorem zero_inBipolar : NUM.zero.inBipolar = true := by decide +kernel

theorem zero_nonneg : NUM.zero.nonneg = true := by decide +kernel

theorem reference_sr_isRate : Config.reference.sr.isRate = true := by decide +kernel

/-! ## What the setters store -/

section
variable {v w sr : NUM}

theorem setUnit_inUnit (v : NUM) : (v.sanUnit).ftz.inUnit = true := ftz_inUnit (sanUnit_inUnit v)

/-- `ftz` leaves a sample rate (R153). -/
theorem ftz_of_isRate (h : v.isRate = true) : v.ftz = v := by
  rw [NUM.isRate_def, Bool.and_eq_true] at h
  rcases NUM.ftz_eq_or v with hz | hv
  · rw [hz] at h
    exact absurd h.1 (by decide +kernel)
  · exact hv

theorem ftz_isRate (h : v.isRate = true) : v.ftz.isRate = true := by rwa [ftz_of_isRate h]

/-- A sample rate is a finite number above 0 (R153). -/
theorem isRate_value (h : v.isRate = true) : v.isFinite = true ∧ 0 ≤ v.value := by
  have hv := ftz_of_isRate h
  rw [NUM.isRate_def, Bool.and_eq_true, hv] at h
  exact ⟨h.2, NUM.value_zero ▸ (NUM.le_iff_value (by decide +kernel) h.2).1 (NUM.le_of_lt h.1)⟩

theorem nonneg_of_within (hw : w.isFinite = true) (h : NUM.within NUM.zero w v = true) : v.nonneg = true :=
  Bool.and_eq_true_iff.2 ⟨(Bool.and_eq_true_iff.1 h).1, ((NUM.within_iff (by decide +kernel) hw).1 h).1⟩

theorem ftz_within (h0 : NUM.zero.le w = true) (h : NUM.within NUM.zero w v = true) :
    NUM.within NUM.zero w v.ftz = true := by
  obtain ⟨hl, hh⟩ := Bool.and_eq_true_iff.1 h
  exact Bool.and_eq_true_iff.2 ⟨NUM.le_ftz (by decide +kernel) hl, NUM.ftz_le h0 hh⟩

/-- The frequency a setter stores is from 0 to half the sample rate (R154, R383). -/
theorem setFreq_range (h : sr.isRate = true) (v : NUM) :
    ((v.san NUM.zero (sr.div NUM.two)).ftz.nonneg = true) ∧
      (v.san NUM.zero (sr.div NUM.two)).ftz.le (sr.div NUM.two) = true := by
  obtain ⟨hf, h0⟩ := isRate_value h
  have hhalf := NUM.half_within hf h0
  obtain ⟨hpos, -⟩ := Bool.and_eq_true_iff.1 hhalf
  obtain ⟨hfin, -⟩ := (NUM.within_iff (by decide +kernel) hf).1 hhalf
  have hwithin := ftz_within hpos (Bool.and_eq_true_iff.2 (NUM.san_within v hpos))
  exact ⟨nonneg_of_within hfin hwithin, (Bool.and_eq_true_iff.1 hwithin).2⟩

end

/-! ## The control fields of the engines (R38, R153 to R158) -/

/-- The control fields are in their ranges, the bound `sr/2` of the frequency apart. -/
structure EngineRegs.InRange (r : EngineRegs NUM) : Prop where
  sr : r.sr.isRate = true
  freq : r.freq.nonneg = true
  harm : r.harm.inUnit = true
  timb : r.timb.inUnit = true
  morph : r.morph.inUnit = true
  level : r.level.inUnit = true

theorem EngineRegs.legal_iff {r : EngineRegs NUM} : r.legal = true ↔ r.InRange := by
  simp only [EngineRegs.legal, Bool.and_eq_true, and_assoc]
  exact ⟨fun ⟨hsr, hfreq, hharm, htimb, hmorph, hlevel⟩ => ⟨hsr, hfreq, hharm, htimb, hmorph, hlevel⟩,
    fun h => ⟨h.sr, h.freq, h.harm, h.timb, h.morph, h.level⟩⟩

/-- Every operation on the control fields keeps their ranges. -/
theorem EngineRegs.Op.inRange (r r' : EngineRegs NUM) (h : EngineRegs.Op Config.reference rates r r') (hr : r.InRange) :
    r'.InRange := by
  cases h with
  | setSr _ v =>
    unfold EngineRegs.setSr
    split
    case isTrue hv => exact { hr with sr := ftz_isRate hv }
    case isFalse => exact hr
  | setFreq v => exact { hr with freq := (setFreq_range hr.sr v).1 }
  | setHarm v => exact { hr with harm := setUnit_inUnit v }
  | setTimb v => exact { hr with timb := setUnit_inUnit v }
  | setMorph v => exact { hr with morph := setUnit_inUnit v }
  | setLevel v => exact { hr with level := setUnit_inUnit v }
  | powerOn k =>
    exact ⟨reference_sr_isRate, zero_nonneg, zero_inUnit, zero_inUnit, zero_inUnit, one_inUnit⟩

/-- Where the sample rate stays, so does the bound `sr/2` of the frequency. -/
theorem EngineRegs.Op.tuned (hrates : ¬ rates) (r r' : EngineRegs NUM) (h : EngineRegs.Op Config.reference rates r r')
    (hr : r.InRange ∧ r.tuned = true) : r'.InRange ∧ r'.tuned = true := by
  refine ⟨EngineRegs.Op.inRange r r' h hr.1, ?_⟩
  cases h with
  | setSr hset _ => exact absurd hset hrates
  | setFreq v => exact (setFreq_range hr.1.sr v).2
  | setHarm | setTimb | setMorph | setLevel => exact hr.2
  | powerOn k => exact (by decide +kernel : (EngineRegs.powerOn Config.reference 0).tuned = true)

/-- What the operations on the control fields keep, and a new seed, the operations of an engine keep of its fields. -/
theorem EngineMeaning.Lawful.regs_keeps {N E : Type} {cfg : Config.Parameters N} {m : EngineMeaning E N} (hm : m.Lawful)
    {P : EngineRegs N → Prop} (hseed : ∀ r seed, P r → P { r with seed := seed })
    (hop : ∀ r r', EngineRegs.Op cfg rates r r' → P r → P r') {e e' : E} (h : ReflTransGen (m.Op cfg rates) e e')
    (he : P (m.regs e)) : P (m.regs e') := by
  refine keeps_of_sequence (P := fun e => P (m.regs e)) (fun a b hab ha => ?_) h he
  cases hab with
  | regs hr => exact (hm.get a _).symm ▸ hop _ _ hr ha
  | reset =>
    obtain ⟨seed, hseed'⟩ := hm.reset a
    exact hseed'.symm ▸ hseed _ seed ha
  | produce =>
    obtain ⟨seed, hseed'⟩ := hm.produce a
    exact hseed'.symm ▸ hseed _ seed ha

/-- The same of every engine of the state. -/
theorem Evolves.regs_keeps {s t : State} (h : Evolves Config.reference rates s t) {P : EngineRegs NUM → Prop}
    (hseed : ∀ r seed, P r → P { r with seed := seed })
    (hop : ∀ r r', EngineRegs.Op Config.reference rates r r' → P r → P r') (hs : ∀ k, P (s.regs k)) (k : Engine) :
    P (t.regs k) := by
  cases k with
  | sine => exact (SineOsc.meaning_lawful _).regs_keeps hseed hop h.e0 (hs .sine)
  | triangle => exact (TriangleOsc.meaning_lawful _).regs_keeps hseed hop h.e1 (hs .triangle)
  | square => exact (SquareOsc.meaning_lawful _).regs_keeps hseed hop h.e2 (hs .square)
  | saw => exact (SawOsc.meaning_lawful _).regs_keeps hseed hop h.e3 (hs .saw)
  | supersaw => exact (SupersawBank.meaning_lawful _).regs_keeps hseed hop h.e4 (hs .supersaw)
  | virtualAnalog => exact (VirtualAnalog.meaning_lawful _).regs_keeps hseed hop h.e5 (hs .virtualAnalog)
  | fm => exact (FmPair.meaning_lawful _).regs_keeps hseed hop h.e6 (hs .fm)
  | formant => exact (FormantFilter.meaning_lawful _).regs_keeps hseed hop h.e7 (hs .formant)
  | additive => exact (AdditiveBank.meaning_lawful _).regs_keeps hseed hop h.e8 (hs .additive)
  | chord => exact (ChordStack.meaning_lawful _).regs_keeps hseed hop h.e9 (hs .chord)
  | pluckedString => exact (PluckedString.meaning_lawful _).regs_keeps hseed hop h.e10 (hs .pluckedString)
  | pwm => exact (PwmOsc.meaning_lawful _).regs_keeps hseed hop h.e11 (hs .pwm)

/-! ## The phases, the envelope and the drifts of the engines (R39 to R50) -/

/-! `PRODUCE` leaves every phase wrapped (R160). -/

theorem SineOsc.produce_ph (e : SineOsc NUM) : (e.produce Config.reference).2.ph.inPhase = true :=
  phaseNext_inPhase e.ph _

theorem TriangleOsc.produce_ph (e : TriangleOsc NUM) : (e.produce Config.reference).2.ph.inPhase = true :=
  phaseNext_inPhase e.ph _

theorem SquareOsc.produce_ph (e : SquareOsc NUM) : (e.produce Config.reference).2.ph.inPhase = true :=
  phaseNext_inPhase e.ph _

theorem SawOsc.produce_ph (e : SawOsc NUM) : (e.produce Config.reference).2.ph.inPhase = true :=
  phaseNext_inPhase e.ph _

theorem VirtualAnalog.produce_phA (e : VirtualAnalog NUM) : (e.produce Config.reference).2.phA.inPhase = true :=
  phaseNext_inPhase e.phA _

theorem VirtualAnalog.produce_phB (e : VirtualAnalog NUM) : (e.produce Config.reference).2.phB.inPhase = true :=
  phaseNext_inPhase e.phB _

theorem FormantFilter.produce_ph (e : FormantFilter NUM) : (e.produce Config.reference).2.ph.inPhase = true :=
  phaseNext_inPhase e.ph _

theorem SupersawBank.produce_ph (e : SupersawBank NUM) : (e.produce Config.reference).2.ph.inPhase = true :=
  bankMap_all _ e.ph _ fun _ p => phaseNext_inPhase p _

theorem AdditiveBank.produce_ph (e : AdditiveBank NUM) : (e.produce Config.reference).2.ph.inPhase = true :=
  bankMap_all _ e.ph _ fun _ p => phaseNext_inPhase p _

theorem ChordStack.produce_ph (e : ChordStack NUM) : (e.produce Config.reference).2.ph.inPhase = true :=
  bankMap_all _ e.ph _ fun _ p => phaseNext_inPhase p _

/-- A reset draws the nine phases (R231). -/
theorem SupersawBank.reset_ph (e : SupersawBank NUM) : (e.reset Config.reference).ph.inPhase = true :=
  drawPhases_all _ _ _ _ draw_inPhase

/-- A reset draws the sixteen phases (R251). -/
theorem AdditiveBank.reset_ph (e : AdditiveBank NUM) : (e.reset Config.reference).ph.inPhase = true :=
  drawPartialPhases_all _ _ _ _ draw_inPhase

/-- The phases of E6 and its index envelope (R45). -/
structure FmPair.InRange (e : FmPair NUM) : Prop where
  phC : e.phC.inPhase = true
  phM : e.phM.inPhase = true
  env : e.env.inUnit = true

/-- The index envelope is 1 or decays by a factor below 1 (R284). -/
theorem FmPair.envNext_inUnit {e : FmPair NUM} (h : e.env.inUnit = true) :
    (e.envNext Config.reference).inUnit = true := by
  unfold FmPair.envNext
  split
  · decide +kernel
  · exact ftz_inUnit (NUM.upTo_one_iff.1
      ((NUM.upTo_one_iff.2 h).mul (NUM.upTo_one_iff.2 (by decide +kernel)) (by decide)))

theorem FmPair.produce_inRange {e : FmPair NUM} (he : e.InRange) : (e.produce Config.reference).2.InRange where
  phC := phaseNext_inPhase e.phC _
  phM := phaseNext_inPhase e.phM _
  env := FmPair.envNext_inUnit he.env

theorem FmPair.ops_inRange {e e' : FmPair NUM}
    (h : ReflTransGen ((FmPair.meaning Config.reference).Op Config.reference rates) e e') (he : e.InRange) :
    e'.InRange :=
  EngineMeaning.ops_keep FmPair.InRange (fun _ _ he => ⟨he.phC, he.phM, he.env⟩)
    (fun _ _ => ⟨zero_inPhase, zero_inPhase, zero_inUnit⟩)
    (fun _ he => FmPair.produce_inRange he) h he

/-- The phase of a channel of E11, its drift and the drift's target (R50). -/
structure PwmChannel.InRange (u : PwmChannel NUM) : Prop where
  ph : u.ph.inPhase = true
  drift : u.drift.inBipolar = true
  target : u.target.inBipolar = true

theorem ftz_inBipolar {v : NUM} (h : v.inBipolar = true) : v.ftz.inBipolar = true := by
  obtain ⟨hl, hh⟩ := Bool.and_eq_true_iff.1 h
  exact Bool.and_eq_true_iff.2 ⟨NUM.le_ftz (by decide +kernel) hl, NUM.ftz_le (by decide +kernel) hh⟩

theorem draw_upTo_one (seed : BitVec 32) : (rngOut seed).UpTo 1 := by
  obtain ⟨hl, hh⟩ := rngOut_inPhase seed
  exact NUM.upTo_one_iff.2 (Bool.and_eq_true_iff.2 ⟨hl, NUM.le_of_lt hh⟩)

/-- A drawn target is in [-1, 1] (R163, R334). -/
theorem ftz_bipolar_inBipolar {d : NUM} (hd : d.UpTo 1) : (bipolar Config.reference d).ftz.inBipolar = true :=
  ftz_inBipolar (NUM.bipolar_inBipolar hd)

section
variable {e : PwmOsc NUM} {draws : Nat → NUM} (hdraws : ∀ i, (draws i).UpTo 1) (c : Chan)
  (he : (stereoGet e.ch c).InRange)
include hdraws he

theorem PwmOsc.targetNext_inBipolar : (e.targetNext Config.reference draws c).inBipolar = true := by
  unfold PwmOsc.targetNext
  split
  · cases c with
    | left => exact ftz_bipolar_inBipolar (hdraws 0)
    | right => exact ftz_bipolar_inBipolar (hdraws 1)
  · exact he.target

/-- The drift moves towards its target by `PWM_DRIFT_SLEW` of the way (R334). -/
theorem PwmOsc.driftNext_inBipolar : (e.driftNext Config.reference draws c).inBipolar = true := by
  have hslew : Config.reference.pwmDriftSlew.UpTo 1 := NUM.upTo_one_iff.2 (by decide +kernel)
  have hhalf : Config.reference.pwmDriftSlew.value ≤ 1 / 2 := by
    have := (NUM.le_iff_value (a := Config.reference.pwmDriftSlew) (b := NUM.halving 2) (by decide +kernel)
      (by decide +kernel)).1 (by decide +kernel)
    rw [NUM.value_halving (by decide)] at this
    linarith
  exact ftz_inBipolar (NUM.drift_inBipolar he.drift (targetNext_inBipolar hdraws c he) hslew.1 hslew.2.1 hhalf)

theorem PwmOsc.channelNext_inRange : (e.channelNext Config.reference draws c).InRange :=
  ⟨phaseNext_inPhase _ _, driftNext_inBipolar hdraws c he, targetNext_inBipolar hdraws c he⟩

end

theorem PwmOsc.produce_inRange {e : PwmOsc NUM} (he : ∀ c, (stereoGet e.ch c).InRange) :
    ∀ c, (stereoGet (e.produce Config.reference).2.ch c).InRange := by
  have hdraws : ∀ i, (e.regs.draws Config.reference i).UpTo 1 := fun _ => draw_upTo_one _
  exact Chan.forall_iff.2 ⟨channelNext_inRange hdraws .left (he .left), channelNext_inRange hdraws .right (he .right)⟩

theorem PwmOsc.ops_inRange {e e' : PwmOsc NUM}
    (h : ReflTransGen ((PwmOsc.meaning Config.reference).Op Config.reference rates) e e')
    (he : ∀ c, (stereoGet e.ch c).InRange) : ∀ c, (stereoGet e'.ch c).InRange := by
  have hclear : (PwmChannel.clear Config.reference).InRange := ⟨zero_inPhase, zero_inBipolar, zero_inBipolar⟩
  exact EngineMeaning.ops_keep (m := PwmOsc.meaning Config.reference) (fun e => ∀ c, (stereoGet e.ch c).InRange)
    (fun _ _ he => he) (fun _ _ => Chan.forall_iff.2 ⟨hclear, hclear⟩) (fun _ he => PwmOsc.produce_inRange he) h he

/-! ## The envelopes (R51, R52, R351 to R372) -/

/-- The level, the sample rate, the times and the sustain level of ADSR. -/
structure Adsr.InRange (u : Adsr NUM) : Prop where
  level : u.level.inUnit = true
  sr : u.sr.isRate = true
  a : u.a.inTime = true
  d : u.d.inTime = true
  s : u.s.inUnit = true
  r : u.r.inTime = true

theorem Adsr.Op.inRange (u v : Adsr NUM) (h : u.Op Config.reference rates v) (hu : u.InRange) : v.InRange := by
  cases h with
  | reset => exact { hu with level := zero_inUnit }
  | setSr _ v =>
    unfold Adsr.setSr
    split
    case isTrue hv => exact { hu with sr := ftz_isRate hv }
    case isFalse => exact hu
  | setAttack v => exact { hu with a := inTime_san v }
  | setDecay v => exact { hu with d := inTime_san v }
  | setSustain v => exact { hu with s := setUnit_inUnit v }
  | setRelease v => exact { hu with r := inTime_san v }
  | gateOn | gateOff => exact { hu with }
  | process =>
    exact ⟨adsr_process_level u, by rw [Adsr.process_sr]; exact hu.sr, by rw [Adsr.process_a]; exact hu.a,
      by rw [Adsr.process_d]; exact hu.d, by rw [Adsr.process_s]; exact hu.s, by rw [Adsr.process_r]; exact hu.r⟩
  | powerOn => exact ⟨zero_inUnit, reference_sr_isRate, zero_inTime, zero_inTime, zero_inUnit, zero_inTime⟩

/-- The level, the sample rate and the times of AD. -/
structure Ad.InRange (u : Ad NUM) : Prop where
  level : u.level.inUnit = true
  sr : u.sr.isRate = true
  a : u.a.inTime = true
  d : u.d.inTime = true

theorem Ad.Op.inRange (u v : Ad NUM) (h : u.Op Config.reference rates v) (hu : u.InRange) : v.InRange := by
  cases h with
  | reset | gateOff => exact { hu with level := zero_inUnit }
  | setSr _ v =>
    unfold Ad.setSr
    split
    case isTrue hv => exact { hu with sr := ftz_isRate hv }
    case isFalse => exact hu
  | setAttack v => exact { hu with a := inTime_san v }
  | setDecay v => exact { hu with d := inTime_san v }
  | gateOn => exact { hu with }
  | process =>
    exact ⟨ad_process_level u, by rw [Ad.process_sr]; exact hu.sr, by rw [Ad.process_a]; exact hu.a,
      by rw [Ad.process_d]; exact hu.d⟩
  | powerOn => exact ⟨zero_inUnit, reference_sr_isRate, zero_inTime, zero_inTime⟩

/-! ## The LFO (R53, R382 to R387) -/

/-- The phase, the held random value and the control registers of LFO, the bound `sr/2` of the frequency apart. -/
structure Lfo.InRange (u : Lfo NUM) : Prop where
  ph : u.ph.inPhase = true
  rnd : u.rnd.inBipolar = true
  sr : u.sr.isRate = true
  freq : u.freq.nonneg = true
  variation : u.variation.inUnit = true

theorem ftz_wrap1_inPhase (p : NUM) : p.wrap1.ftz.inPhase = true :=
  ftz_inPhase (Bool.and_eq_true_iff.2 (NUM.wrap1_inPhase p))

/-- One sample moves the phase and may redraw the held value; the control registers stay (R384). -/
theorem Lfo.process_cases (u : Lfo NUM) : ∃ ph rnd seed,
    u.process Config.reference = { u with ph := ph, rnd := rnd, seed := seed } ∧ ph.inPhase = true ∧
      (rnd = u.rnd ∨ rnd.inBipolar = true) := by
  unfold Lfo.process
  dsimp only
  split
  · exact ⟨_, _, _, rfl, ftz_wrap1_inPhase _, .inr (ftz_bipolar_inBipolar (draw_upTo_one _))⟩
  · exact ⟨_, _, _, rfl, ftz_wrap1_inPhase _, .inl rfl⟩

theorem Lfo.Op.inRange (u v : Lfo NUM) (h : u.Op Config.reference rates v) (hu : u.InRange) : v.InRange := by
  cases h with
  | reset => exact { hu with ph := zero_inPhase, rnd := zero_inBipolar }
  | setSr _ v =>
    unfold Lfo.setSr
    split
    case isTrue hv => exact { hu with sr := ftz_isRate hv }
    case isFalse => exact hu
  | setFreq v => exact { hu with freq := (setFreq_range hu.sr v).1 }
  | setWave v => exact { hu with }
  | setVar v => exact { hu with variation := setUnit_inUnit v }
  | process =>
    obtain ⟨ph, rnd, seed, hprocess, hph, hrnd⟩ := Lfo.process_cases u
    rw [hprocess]
    exact { hu with ph := hph, rnd := hrnd.elim (fun heq => heq ▸ hu.rnd) id }
  | powerOn => exact ⟨zero_inPhase, zero_inBipolar, reference_sr_isRate, zero_nonneg, zero_inUnit⟩

/-- Where the sample rate stays, so does the bound `sr/2` of the frequency. -/
theorem Lfo.Op.tuned (hrates : ¬ rates) (u v : Lfo NUM) (h : u.Op Config.reference rates v)
    (hu : u.InRange ∧ u.freq.le (u.sr.div NUM.two) = true) : v.InRange ∧ v.freq.le (v.sr.div NUM.two) = true := by
  refine ⟨Lfo.Op.inRange u v h hu.1, ?_⟩
  cases h with
  | setSr hset _ => exact absurd hset hrates
  | setFreq v => exact (setFreq_range hu.1.sr v).2
  | reset | setWave | setVar => exact hu.2
  | process =>
    obtain ⟨ph, rnd, seed, hprocess, -⟩ := Lfo.process_cases u
    rw [hprocess]
    exact hu.2
  | powerOn => exact (by decide +kernel : NUM.zero.le (Config.reference.sr.div NUM.two) = true)

/-! ## The filter (R54, R404 to R409) -/

/-- The registers of FLT; the cutoff at most the larger of its two bounds. -/
structure Ladder.InRange (u : Ladder NUM) : Prop where
  sr : u.sr.isRate = true
  fc0 : NUM.zero.le u.fc = true
  fc : u.fc.le ((Config.reference.fcMaxRatio.mul u.sr).max Config.reference.fcMin) = true
  res : NUM.within NUM.zero Config.reference.resMax u.res = true
  wet : u.wet.inUnit = true

/-- The cutoff is in `FC_MIN` .. `FC_MAX_RATIO·sr`. -/
structure Ladder.Tuned (u : Ladder NUM) : Prop where
  range : Config.reference.fcMin.le (Config.reference.fcMaxRatio.mul u.sr) = true
  low : Config.reference.fcMin.le u.fc = true
  high : u.fc.le (Config.reference.fcMaxRatio.mul u.sr) = true

section
variable {v hi sr : NUM}

/-- The upper bound of the cutoff is a number not below 0. -/
theorem zero_le_maxCutoff (h : sr.isRate = true) : NUM.zero.le (Config.reference.fcMaxRatio.mul sr) = true := by
  obtain ⟨hf, h0⟩ := isRate_value h
  exact (Bool.and_eq_true_iff.1 (NUM.mul_within_of_inUnit (by decide +kernel) hf h0)).1

theorem fcMin_le_range : Config.reference.fcMin.le (Config.reference.fcMaxRatio.mul Config.reference.sr) = true := by
  decide +kernel

theorem zero_within_resMax : NUM.within NUM.zero Config.reference.resMax NUM.zero = true := by decide +kernel

theorem fcMin_notNaN : Config.reference.fcMin.isNaN = false := by decide +kernel

theorem zero_le_fcMin : NUM.zero.le Config.reference.fcMin = true := by decide +kernel

/-- A `clamp` to `FC_MIN` .. `hi`, an empty range too, is from 0 to the larger bound. -/
theorem clamp_cutoff (h0 : NUM.zero.le hi = true) (v : NUM) :
    NUM.within NUM.zero (hi.max Config.reference.fcMin) (v.clamp Config.reference.fcMin hi) = true := by
  obtain ⟨-, hnum, -⟩ := (NUM.le_iff _ _).1 h0
  have hmax : hi.le (hi.max Config.reference.fcMin) = true := by
    rw [NUM.max_def]
    split
    · exact NUM.le_self hnum
    case isFalse hlt => exact NUM.le_of_lt (NUM.lt_of_not_le fcMin_notNaN hnum (Bool.eq_false_iff.2 hlt))
  refine Bool.and_eq_true_iff.2 ⟨?_, NUM.le_trans (NUM.min_le _ _ hnum) hmax⟩
  rw [NUM.clamp_def]
  rcases NUM.min_eq_or (v.max Config.reference.fcMin) hi with h | h <;> rw [h]
  · exact NUM.le_trans zero_le_fcMin (NUM.le_max v _ fcMin_notNaN)
  · exact h0

/-- A NaN stores `FC_MIN`, whatever the range is (R405). -/
theorem san_cutoff (h0 : NUM.zero.le hi = true) (v : NUM) :
    NUM.within NUM.zero (hi.max Config.reference.fcMin) (v.san Config.reference.fcMin hi) = true := by
  rw [NUM.san_def]
  split
  · exact Bool.and_eq_true_iff.2 ⟨zero_le_fcMin, NUM.le_max hi _ fcMin_notNaN⟩
  · exact clamp_cutoff h0 v

theorem ftz_cutoff (h : NUM.within NUM.zero (hi.max Config.reference.fcMin) v = true) :
    NUM.within NUM.zero (hi.max Config.reference.fcMin) v.ftz = true := by
  obtain ⟨hl, hh⟩ := Bool.and_eq_true_iff.1 h
  exact ftz_within (NUM.le_trans hl hh) h

/-- A word of at least `FC_MIN` is no denormal. -/
theorem ftz_of_fcMin_le (h : Config.reference.fcMin.le v = true) : v.ftz = v := by
  have hkey := ((NUM.le_iff _ _).1 h).2.2
  have hmin : Config.reference.fcMin.key = 0x41A00000 := by decide +kernel
  have hmag : ¬ v.mag < NUM.denormMinMag := by
    rw [hmin] at hkey
    unfold NUM.key at hkey
    unfold NUM.denormMinMag
    split at hkey <;> omega
  rw [NUM.ftz_def, if_neg (fun h => hmag (Nat.blt_eq.mp h))]

end

theorem Ladder.Op.inRange (u v : Ladder NUM) (h : u.Op Config.reference rates v) (hu : u.InRange) : v.InRange := by
  cases h with
  | reset | process => exact { hu with }
  | setSr _ v =>
    unfold Ladder.setSr
    split
    case isTrue hv =>
      obtain ⟨hl, hh⟩ := Bool.and_eq_true_iff.1 (ftz_cutoff (clamp_cutoff (zero_le_maxCutoff hv) u.fc))
      have hsr : Config.reference.ftz v = v := ftz_of_isRate hv
      rw [hsr]
      exact { hu with sr := hv, fc0 := hl, fc := hh }
    case isFalse => exact hu
  | setCutoff v =>
    obtain ⟨hl, hh⟩ := Bool.and_eq_true_iff.1 (ftz_cutoff (san_cutoff (zero_le_maxCutoff hu.sr) v))
    exact { hu with fc0 := hl, fc := hh }
  | setRes v =>
    exact { hu with res := ftz_within (by decide +kernel) (Bool.and_eq_true_iff.2 (NUM.san_within v (by decide +kernel))) }
  | setWet v => exact { hu with wet := setUnit_inUnit v }
  | powerOn => exact ⟨reference_sr_isRate, zero_le_fcMin, NUM.le_max _ _ fcMin_notNaN, zero_within_resMax, zero_inUnit⟩

/-- Where the sample rate stays, so does the range of the cutoff. -/
theorem Ladder.Op.tuned (hrates : ¬ rates) (u v : Ladder NUM) (h : u.Op Config.reference rates v) (hu : u.Tuned) :
    v.Tuned := by
  cases h with
  | reset | process | setRes | setWet => exact ⟨hu.range, hu.low, hu.high⟩
  | setSr hset _ => exact absurd hset hrates
  | setCutoff v =>
    obtain ⟨hl, hh⟩ := NUM.san_within v hu.range
    have hfc : (u.setCutoff Config.reference v).fc = v.san Config.reference.fcMin (Config.reference.fcMaxRatio.mul u.sr) :=
      ftz_of_fcMin_le hl
    exact ⟨hu.range, by rw [hfc]; exact hl, by rw [hfc]; exact hh⟩
  | powerOn => exact ⟨fcMin_le_range, NUM.le_self fcMin_notNaN, fcMin_le_range⟩

/-! ## The effects and the pipeline (R55 to R57) -/

theorem Delay.Op.inRange (u v : Delay NUM) (h : u.Op Config.reference v) (hu : u.amount.inUnit = true) :
    v.amount.inUnit = true := by
  cases h with
  | reset | process => exact hu
  | setAmount v => exact setUnit_inUnit v
  | powerOn => exact zero_inUnit

theorem Reverb.Op.inRange (u v : Reverb NUM) (h : u.Op Config.reference v) (hu : u.amount.inUnit = true) :
    v.amount.inUnit = true := by
  cases h with
  | reset | process => exact hu
  | setAmount v => exact setUnit_inUnit v
  | powerOn => exact zero_inUnit

/-- What `f` keeps of a word, it keeps of every word of a bank. -/
theorem bankMap_keeps {N : Type} {n : Nat} {b : Bank n N} {p : N → Bool} {f : Nat → N → N} (hb : b.words.all p = true)
    (hf : ∀ i v, p v = true → p (f i v) = true) : (bankMap f b).words.all p = true := by
  have hfrom : ∀ (i : Nat) (l : List N), l.all p = true → (mapFrom f i l).all p = true := by
    intro i l
    induction l generalizing i with
    | nil => exact id
    | cons v l ih =>
      intro h
      obtain ⟨hv, hl⟩ := Bool.and_eq_true_iff.1 h
      exact Bool.and_eq_true_iff.2 ⟨hf i v hv, ih (i + 1) hl⟩
  exact hfrom 0 b.words hb

/-- The amount of CHO and the phases of its two channels. -/
structure Chorus.InRange (u : Chorus NUM) : Prop where
  amount : u.amount.inUnit = true
  phi : ∀ c, (stereoGet u.ch c).phi.words.all NUM.inTurn = true

theorem ftz_inTurn {v : NUM} (h : v.inTurn = true) : v.ftz.inTurn = true := by
  obtain ⟨hl, hh⟩ := Bool.and_eq_true_iff.1 h
  exact Bool.and_eq_true_iff.2 ⟨NUM.le_ftz (by decide +kernel) hl, NUM.ftz_lt (by decide +kernel) hh⟩

theorem twoPi_upTo : Config.reference.twoPi.UpTo 7 := (NUM.upTo_iff (by decide)).2 (by decide +kernel)

/-- At 48000 Hz a voice moves by at most 1 in a sample (R444). -/
theorem choIncrement_upTo {a : NUM} (ha : a.inUnit = true) :
    ((Config.reference.twoPi.mul (choRate Config.reference a)).div Config.reference.sr).UpTo 1 := by
  obtain ⟨hsr, -⟩ := isRate_value reference_sr_isRate
  have hrate21 : (21 : ℕ) ≤ Config.reference.sr.value := by
    rw [← NUM.value_ofNat (n := 21) (by decide)]
    exact (NUM.le_iff_value (by decide +kernel) hsr).1 (by decide +kernel)
  have hspan : (Config.reference.choRateMax.sub Config.reference.choRateMin).UpTo 2 :=
    (NUM.upTo_iff (by decide)).2 (by decide +kernel)
  have hrate : (choRate Config.reference a).UpTo (1 + 2 * 1) :=
    (NUM.upTo_one_iff.2 (by decide +kernel)).add (hspan.mul (NUM.upTo_one_iff.2 ha) (by decide)) (by decide)
  exact (twoPi_upTo.mul hrate (by decide)).div hsr (lt_of_lt_of_le (by norm_num) hrate21) hrate21

/-- One subtraction of `2·PI` brings back a phase of at most 8 (R447). -/
theorem wrapTurn_inTurn {p : NUM} (hp : p.UpTo 8) :
    (if Config.reference.twoPi.le p then p.sub Config.reference.twoPi else p).inTurn = true := by
  have hturn := twoPi_upTo.1
  split
  case isTrue hle =>
    have hturn6 : (6 : ℕ) ≤ Config.reference.twoPi.value := by
      rw [← NUM.value_ofNat (n := 6) (by decide)]
      exact (NUM.le_iff_value (by decide +kernel) hturn).1 (by decide +kernel)
    have hwrapped : (p.sub Config.reference.twoPi).UpTo 2 := hp.sub (by decide) hturn
      ((NUM.le_iff_value hturn hp.1).1 hle) (by norm_num at hturn6 ⊢; linarith)
    obtain ⟨hl, hh⟩ := Bool.and_eq_true_iff.1 ((NUM.upTo_iff (by decide)).1 hwrapped)
    exact Bool.and_eq_true_iff.2 ⟨hl, NUM.lt_of_le_of_lt hh (by decide +kernel)⟩
  case isFalse hlt =>
    exact Bool.and_eq_true_iff.2 ⟨(Bool.and_eq_true_iff.1 ((NUM.upTo_iff (by decide)).1 hp)).1,
      NUM.lt_of_not_le (NUM.isNaN_of_finite hturn) (NUM.isNaN_of_finite hp.1) (Bool.eq_false_iff.2 hlt)⟩

theorem choPhaseNext_inTurn {a phi : NUM} (ha : a.inUnit = true) (hphi : phi.inTurn = true) :
    (choPhaseNext Config.reference a phi).inTurn = true := by
  obtain ⟨hl, hh⟩ := Bool.and_eq_true_iff.1 hphi
  have hphi7 : phi.UpTo 7 := (NUM.upTo_iff (by decide)).2
    (Bool.and_eq_true_iff.2 ⟨hl, NUM.le_trans (NUM.le_of_lt hh) (by decide +kernel)⟩)
  exact ftz_inTurn (wrapTurn_inTurn (hphi7.add (choIncrement_upTo ha) (by decide)))

theorem Chorus.Op.inRange (u v : Chorus NUM) (h : u.Op Config.reference v) (hu : u.InRange) : v.InRange := by
  have hclear : (ChorusChannel.clear Config.reference).phi.words.all NUM.inTurn = true := by decide +kernel
  cases h with
  | reset => exact ⟨hu.amount, Chan.forall_iff.2 ⟨hclear, hclear⟩⟩
  | setAmount v => exact ⟨setUnit_inUnit v, hu.phi⟩
  | process c x =>
    refine ⟨hu.amount, forall_stereoGet_stereoSet (P := fun _ (ch : ChorusChannel NUM) => ch.phi.words.all NUM.inTurn = true)
      hu.phi c ?_⟩
    exact bankMap_keeps (hu.phi c) fun _ _ hphi => choPhaseNext_inTurn hu.amount hphi
  | powerOn => exact ⟨zero_inUnit, Chan.forall_iff.2 ⟨hclear, hclear⟩⟩

/-- PIPE's copy of the level of AD (R501). -/
theorem Pipe.Op.inRange (p q : Pipe NUM) (h : p.Op Config.reference q) (hp : p.adLevel.inUnit = true) :
    q.adLevel.inUnit = true := by
  cases h with
  | setParam | noteOn | noteOff | latch | select | silence => exact hp
  | adLevel u => exact ftz_inUnit (ad_process_level u)
  | powerOn => exact zero_inUnit

/-! ## The state -/

/-- The ranges of the state, unit by unit. -/
structure State.Of.InRange (s : State) : Prop where
  regs : ∀ k, (s.regs k).InRange
  e0 : s.e0.ph.inPhase = true
  e1 : s.e1.ph.inPhase = true
  e2 : s.e2.ph.inPhase = true
  e3 : s.e3.ph.inPhase = true
  e4 : s.e4.ph.inPhase = true
  e5A : s.e5.phA.inPhase = true
  e5B : s.e5.phB.inPhase = true
  e6 : s.e6.InRange
  e7 : s.e7.ph.inPhase = true
  e8 : s.e8.ph.inPhase = true
  e9 : s.e9.ph.inPhase = true
  e11 : ∀ c, (stereoGet s.e11.ch c).InRange
  adsr : s.adsr.InRange
  ad : s.ad.InRange
  lfo : s.lfo.InRange
  flt : s.flt.InRange
  dly : s.dly.amount.inUnit = true
  cho : s.cho.InRange
  rev : s.rev.amount.inUnit = true
  pipe : s.pipe.adLevel.inUnit = true

theorem State.Of.legal_iff {s : State} : s.legal = true ↔ s.InRange := by
  simp only [State.Of.legal, State.Of.enginesLegal, State.Of.unitsLegal, Bool.and_eq_true, and_assoc, EngineRegs.legal_iff]
  constructor
  · rintro ⟨r0, r1, r2, r3, r4, r5, r6, r7, r8, r9, r10, r11, e0, e1, e2, e3, e4, e5A, e5B, phC, phM, env, e7, e8, e9,
      phL, phR, driftL, driftR, targetL, targetR, adsrLevel, adsrSr, adsrA, adsrD, adsrS, adsrR, adLevel, adSr, adA, adD,
      lfoPh, lfoRnd, lfoSr, lfoFreq, lfoVar, fltSr, fltFc0, fltFc, fltRes, fltWet, dly, cho, rev, phiL, phiR, pipe⟩
    exact {
      regs := fun k => by cases k <;> assumption
      e0 := e0, e1 := e1, e2 := e2, e3 := e3, e4 := e4, e5A := e5A, e5B := e5B, e6 := ⟨phC, phM, env⟩, e7 := e7, e8 := e8
      e9 := e9
      e11 := Chan.forall_iff.2 ⟨⟨phL, driftL, targetL⟩, ⟨phR, driftR, targetR⟩⟩
      adsr := ⟨adsrLevel, adsrSr, adsrA, adsrD, adsrS, adsrR⟩
      ad := ⟨adLevel, adSr, adA, adD⟩
      lfo := ⟨lfoPh, lfoRnd, lfoSr, lfoFreq, lfoVar⟩
      flt := ⟨fltSr, fltFc0, fltFc, fltRes, fltWet⟩
      dly := dly, cho := ⟨cho, Chan.forall_iff.2 ⟨phiL, phiR⟩⟩, rev := rev, pipe := pipe }
  · intro h
    exact ⟨h.regs .sine, h.regs .triangle, h.regs .square, h.regs .saw, h.regs .supersaw, h.regs .virtualAnalog,
      h.regs .fm, h.regs .formant, h.regs .additive, h.regs .chord, h.regs .pluckedString, h.regs .pwm, h.e0, h.e1, h.e2,
      h.e3, h.e4, h.e5A, h.e5B, h.e6.phC, h.e6.phM, h.e6.env, h.e7, h.e8, h.e9, (h.e11 .left).ph, (h.e11 .right).ph,
      (h.e11 .left).drift, (h.e11 .right).drift, (h.e11 .left).target, (h.e11 .right).target, h.adsr.level, h.adsr.sr,
      h.adsr.a, h.adsr.d, h.adsr.s, h.adsr.r, h.ad.level, h.ad.sr, h.ad.a, h.ad.d, h.lfo.ph, h.lfo.rnd, h.lfo.sr,
      h.lfo.freq, h.lfo.variation, h.flt.sr, h.flt.fc0, h.flt.fc, h.flt.res, h.flt.wet, h.dly, h.cho.amount, h.rev,
      h.cho.phi .left, h.cho.phi .right, h.pipe⟩

/-- Any operations of the units keep the ranges. -/
theorem Evolves.inRange {s t : State} (h : Evolves Config.reference rates s t) (hs : s.InRange) : t.InRange where
  regs := h.regs_keeps (fun _ _ hr => { hr with }) EngineRegs.Op.inRange hs.regs
  e0 := EngineMeaning.ops_keep (fun e => e.ph.inPhase = true) (fun _ _ he => he) (fun _ _ => zero_inPhase)
    (fun e _ => e.produce_ph) h.e0 hs.e0
  e1 := EngineMeaning.ops_keep (fun e => e.ph.inPhase = true) (fun _ _ he => he) (fun _ _ => zero_inPhase)
    (fun e _ => e.produce_ph) h.e1 hs.e1
  e2 := EngineMeaning.ops_keep (fun e => e.ph.inPhase = true) (fun _ _ he => he) (fun _ _ => zero_inPhase)
    (fun e _ => e.produce_ph) h.e2 hs.e2
  e3 := EngineMeaning.ops_keep (fun e => e.ph.inPhase = true) (fun _ _ he => he) (fun _ _ => zero_inPhase)
    (fun e _ => e.produce_ph) h.e3 hs.e3
  e4 := EngineMeaning.ops_keep (fun e => e.ph.inPhase = true) (fun _ _ he => he) (fun e _ => e.reset_ph)
    (fun e _ => e.produce_ph) h.e4 hs.e4
  e5A := EngineMeaning.ops_keep (fun e => e.phA.inPhase = true) (fun _ _ he => he) (fun _ _ => zero_inPhase)
    (fun e _ => e.produce_phA) h.e5 hs.e5A
  e5B := EngineMeaning.ops_keep (fun e => e.phB.inPhase = true) (fun _ _ he => he) (fun _ _ => zero_inPhase)
    (fun e _ => e.produce_phB) h.e5 hs.e5B
  e6 := FmPair.ops_inRange h.e6 hs.e6
  e7 := EngineMeaning.ops_keep (fun e => e.ph.inPhase = true) (fun _ _ he => he) (fun _ _ => zero_inPhase)
    (fun e _ => e.produce_ph) h.e7 hs.e7
  e8 := EngineMeaning.ops_keep (fun e => e.ph.inPhase = true) (fun _ _ he => he) (fun e _ => e.reset_ph)
    (fun e _ => e.produce_ph) h.e8 hs.e8
  e9 := EngineMeaning.ops_keep (fun e => e.ph.inPhase = true) (fun _ _ he => he) (fun _ _ => fill_zero_inPhase 4)
    (fun e _ => e.produce_ph) h.e9 hs.e9
  e11 := PwmOsc.ops_inRange h.e11 hs.e11
  adsr := keeps_of_sequence Adsr.Op.inRange h.adsr hs.adsr
  ad := keeps_of_sequence Ad.Op.inRange h.ad hs.ad
  lfo := keeps_of_sequence Lfo.Op.inRange h.lfo hs.lfo
  flt := keeps_of_sequence Ladder.Op.inRange h.flt hs.flt
  dly := keeps_of_sequence (P := fun u => u.amount.inUnit = true) Delay.Op.inRange h.dly hs.dly
  cho := keeps_of_sequence Chorus.Op.inRange h.cho hs.cho
  rev := keeps_of_sequence (P := fun u => u.amount.inUnit = true) Reverb.Op.inRange h.rev hs.rev
  pipe := keeps_of_sequence (P := fun p => p.adLevel.inUnit = true) Pipe.Op.inRange h.pipe hs.pipe

/-- The bounds that depend on a sample rate, unit by unit. -/
theorem State.Of.tuned_iff {s : State} : s.tuned = true ↔
    (∀ k, (s.regs k).tuned = true) ∧ s.lfo.freq.le (s.lfo.sr.div NUM.two) = true ∧ s.flt.Tuned := by
  simp only [State.Of.tuned, Bool.and_eq_true, and_assoc]
  constructor
  · rintro ⟨r0, r1, r2, r3, r4, r5, r6, r7, r8, r9, r10, r11, lfo, range, low, high⟩
    exact ⟨fun k => by cases k <;> assumption, lfo, range, low, high⟩
  · rintro ⟨regs, lfo, flt⟩
    exact ⟨regs .sine, regs .triangle, regs .square, regs .saw, regs .supersaw, regs .virtualAnalog, regs .fm,
      regs .formant, regs .additive, regs .chord, regs .pluckedString, regs .pwm, lfo, flt.range, flt.low, flt.high⟩

/-- Operations that set no sample rate keep them. -/
theorem Evolves.tuned {s t : State} (h : Evolves Config.reference rates s t) (hrates : ¬ rates) (hs : s.InRange)
    (ht : s.tuned = true) : t.tuned = true := by
  obtain ⟨hregs, hlfo, hflt⟩ := State.Of.tuned_iff.1 ht
  have regs := h.regs_keeps (P := fun r => r.InRange ∧ r.tuned = true) (fun _ _ hr => ⟨{ hr.1 with }, hr.2⟩)
    (EngineRegs.Op.tuned hrates) fun k => ⟨hs.regs k, hregs k⟩
  have lfo := keeps_of_sequence (P := fun u => u.InRange ∧ u.freq.le (u.sr.div NUM.two) = true) (Lfo.Op.tuned hrates)
    h.lfo ⟨hs.lfo, hlfo⟩
  exact State.Of.tuned_iff.2 ⟨fun k => (regs k).2, lfo.2, keeps_of_sequence (Ladder.Op.tuned hrates) h.flt hflt⟩

/-- Settles O60: a step is a sequence of the units' operations, and each of those keeps its unit's ranges; the bounds that
depend on a sample rate too, where no operation sets one. The bound `MAX_FRAMES` is not needed. -/
theorem everyStepKeepsRegistersLegal : Obligations.EveryStepKeepsRegistersLegal := by
  refine ⟨fun M s t _ hs hstep => ?_, fun M s t _ hrates hs ht hstep => ?_⟩
  all_goals have hops := stepIn_evolves ((stepIn_reference s).trans hstep)
  · exact State.Of.legal_iff.2 (hops.inRange (State.Of.legal_iff.1 hs))
  · exact hops.tuned (not_setsRate hrates) (State.Of.legal_iff.1 hs) ht

end Sys2Proof.Machine

/-! The memory of the block: a buffer takes one word at its cursor (R82 to R84), and a parameter register reads as it was
last written (R96, R485, R486). -/

namespace Sys2Proof.Machine

/-! ## One word of a buffer at a time (R82, R83) -/

section
variable {N : Type} [DecidableEq N] {cfg : Config.Parameters N}

/-- From `old` to `new`, a buffer of `cap` words in canonical form keeps that form and takes one word: `value`, flushed,
at the index `w`. -/
def WritesWord (cfg : Config.Parameters N) (cap : Nat) (old new : Memory N) (w : Nat) (value : N) : Prop :=
  Memory.wf cap old cfg = true →
    Memory.wf cap new cfg = true ∧ ∀ j : Int, memRead cap new j cfg =
      if j % (cap : Int) = (w : Int) % (cap : Int) then cfg.ftz value else memRead cap old j cfg

theorem memWrite_writesWord {cap : Nat} (hcap : 0 < cap) (m : Memory N) (w : Nat) (v : N) :
    WritesWord cfg cap m (memWrite cap m w v cfg) w v :=
  fun hm => ⟨memWrite_wf hm hcap w v, fun j => memRead_memWrite hm hcap w j v⟩

/-- A comb and an allpass write their line by `push` (R464, R465). -/
theorem Line.push_writesWord {len : Nat} (hlen : 0 < len) (l : Line N) (v : N) :
    WritesWord cfg len l.buf (l.push cfg len v).buf l.idx v := memWrite_writesWord hlen l.buf l.idx v

variable (hcfg : cfg.Admissible) (c : Chan) (x : N)
include hcfg

/-- DLY writes the input and the feedback of the low-pass state it has just stored (R425). -/
theorem Delay.process_writesWord (u : Delay N) :
    WritesWord cfg cfg.dlyCap (stereoGet u.ch c).buf (stereoGet (u.process cfg c x).ch c).buf (stereoGet u.ch c).w
      (cfg.add x (cfg.mul (cfg.add cfg.dlyFbMin (cfg.mul (cfg.sub cfg.dlyFbMax cfg.dlyFbMin) u.amount))
        (stereoGet (u.process cfg c x).ch c).lp)) := by
  simp only [Delay.process, stereoGet_stereoSet_self]
  exact memWrite_writesWord (dlyCap_pos hcfg) _ _ _

/-- CHO writes the input (R447). -/
theorem Chorus.process_writesWord (u : Chorus N) :
    WritesWord cfg cfg.choCap (stereoGet u.ch c).buf (stereoGet (u.process cfg c x).ch c).buf (stereoGet u.ch c).w x := by
  simp only [Chorus.process, stereoGet_stereoSet_self]
  exact memWrite_writesWord (choCap_pos hcfg) _ _ _

/-- REV writes one word in each of its four combs and two allpasses (R464 to R466). -/
theorem Reverb.process_writesWord (u : Reverb N) :
    let old := stereoGet u.ch c
    let new := stereoGet (u.process cfg c x).ch c
    let comb := fun (o n : Line N) (j : Nat) => WritesWord cfg (revCombLen cfg c j) o.buf n.buf o.idx
      (cfg.add x (cfg.mul (u.fb cfg) (o.out cfg (revCombLen cfg c j))))
    let allpass := fun (o n : Line N) (j : Nat) (t : N) => WritesWord cfg (revApLen cfg c j) o.buf n.buf o.idx
      (o.apIn cfg (revApLen cfg c j) t)
    comb old.comb0 new.comb0 0 ∧ comb old.comb1 new.comb1 1 ∧ comb old.comb2 new.comb2 2 ∧
      comb old.comb3 new.comb3 3 ∧ allpass old.ap0 new.ap0 0 (old.combs cfg c) ∧
      allpass old.ap1 new.ap1 1 (old.first cfg c) := by
  simp only [Reverb.process, stereoGet_stereoSet_self]
  have hcomb := revCombLen_pos hcfg c
  have hap := revApLen_pos hcfg c
  exact ⟨Line.push_writesWord (hcomb 0) _ _, Line.push_writesWord (hcomb 1) _ _, Line.push_writesWord (hcomb 2) _ _,
    Line.push_writesWord (hcomb 3) _ _, Line.push_writesWord (hap 0) _ _, Line.push_writesWord (hap 1) _ _⟩

/-- The reference body of E10 writes the excitation and the feedback of a line's damping state in each of its two lines
(R316). -/
theorem PluckedString.body_writesWord (e : PluckedString N) (draws : Nat → N) :
    let e' := (PluckedString.body cfg e draws).state
    WritesWord cfg cfg.strCap e.bufA e'.bufA e.w (cfg.add (e.excitation cfg draws) (cfg.mul cfg.strFb e'.lpA)) ∧
      WritesWord cfg cfg.strCap e.bufB e'.bufB e.w (cfg.add (e.excitation cfg draws) (cfg.mul cfg.strFb e'.lpB)) :=
  ⟨memWrite_writesWord (strCap_pos hcfg) _ _ _, memWrite_writesWord (strCap_pos hcfg) _ _ _⟩

end

/-- The excitation takes one draw, the first (R315). -/
theorem PluckedString.excitation_congr {N : Type} (cfg : Config.Parameters N) (e : PluckedString N) {draws draws' : Nat → N}
    (h : draws 0 = draws' 0) : e.excitation cfg draws = e.excitation cfg draws' := by
  simp only [PluckedString.excitation, PluckedString.bowNext, h]

/-- In the reference configuration `E10.PRODUCE` runs the reference body, and the draw is that of the seed's successor. -/
theorem PluckedString.produce_writesWord (e : PluckedString NUM) :
    let cfg := Config.reference
    let e' := (e.produce cfg).2
    let exc := e.excitation cfg fun _ => cfg.rngOut (cfg.rngStep e.regs.seed)
    WritesWord cfg cfg.strCap e.bufA e'.bufA e.w (cfg.add exc (cfg.mul cfg.strFb e'.lpA)) ∧
      WritesWord cfg cfg.strCap e.bufB e'.bufB e.w (cfg.add exc (cfg.mul cfg.strFb e'.lpB)) := by
  have hexc : e.excitation Config.reference (fun _ => Config.reference.rngOut (Config.reference.rngStep e.regs.seed)) =
      e.excitation Config.reference (e.regs.draws Config.reference) := e.excitation_congr _ rfl
  simp only [hexc, PluckedString.produce_reference]
  exact e.body_writesWord Config.reference_admissible (e.regs.draws Config.reference)

/-! ## The channel an operation names (R115) -/

theorem stereoGet_chanOf {α : Type} (y : Stereo α) (c : Idx) :
    stereoGet y (chanOf c) = if c.getLsbD 0 then y.r else y.l := by
  unfold chanOf
  split <;> rfl

/-- A unit writes the channel named and keeps the other. -/
theorem stereoSet_chanOf_other {α : Type} (y : Stereo α) (c : Idx) (a : α) :
    if c.getLsbD 0 then (stereoSet y (chanOf c) a).l = y.l else (stereoSet y (chanOf c) a).r = y.r := by
  unfold chanOf
  split <;> rfl

theorem revCombLen_chanOf {N : Type} (cfg : Config.Parameters N) (c : Idx) (j : Nat) :
    revCombLen cfg (chanOf c) j = (if c.getLsbD 0 then cfg.revCombLenR else cfg.revCombLenL).getD j 1 := by
  unfold chanOf
  split <;> rfl

theorem revApLen_chanOf {N : Type} (cfg : Config.Parameters N) (c : Idx) (j : Nat) :
    revApLen cfg (chanOf c) j = (if c.getLsbD 0 then cfg.revApLenR else cfg.revApLenL).getD j 1 := by
  unfold chanOf
  split <;> rfl

/-! ## Every buffer of the block (R82 to R84) -/

/-- Settles O40: each of the four units writes its buffers by `memWrite` at the cursor, and the reference configuration
gives every buffer at least one word. -/
theorem delayWritesOneWord : Obligations.DelayWritesOneWord := by
  intro c v s x right wrote
  have hcfg : Config.reference.Admissible := Config.reference_admissible
  simp only [right, ← stereoGet_chanOf, ← revCombLen_chanOf, ← revApLen_chanOf]
  refine ⟨⟨_, rfl, ?_, ?_⟩, ⟨_, rfl, ?_, ?_⟩, ⟨_, rfl, ?_⟩, ⟨_, rfl, ?_⟩⟩
  · exact Delay.process_writesWord hcfg (chanOf c) x s.dly
  · exact stereoSet_chanOf_other ..
  · exact Chorus.process_writesWord hcfg (chanOf c) x s.cho
  · exact stereoSet_chanOf_other ..
  · obtain ⟨hc0, hc1, hc2, hc3, ha0, ha1⟩ := Reverb.process_writesWord hcfg (chanOf c) x s.rev
    exact ⟨hc0, hc1, hc2, hc3, ha0, ha1, stereoSet_chanOf_other ..⟩
  · exact s.e10.produce_writesWord

/-! ## The parameter registers (R96, R485, R486) -/

/-- The decoder reads back a well-formed operation whose row stands in the map (R113). -/
theorem decode_encode_of_rowFound {i : Instr} (hrow : Laws.RowFound.Statement i) (hwf : i.wellFormed = true) :
    decode (encode i) = .ok i := by
  obtain ⟨r, hfind, hbuild⟩ := hrow
  simp only [decode, decodeFields, hfind, hbuild hwf]

/-- With the word of a well-formed operation first on the port, a step runs that operation. -/
theorem step_of_encode {s : State} {i : Instr} {rest : List CommandWord} (hrow : Laws.RowFound.Statement i)
    (hwf : i.wellFormed = true) (hcmds : s.cmds = encode i :: rest) : step s = exec i { s with cmds := rest } := by
  simp only [step, stepWith, State.Of.takeCommand, hcmds, decode_encode_of_rowFound hrow hwf]

/-- `PARAM_SET` of a register that exists replaces its word (R485). -/
theorem exec_pipeParamSet {i : Idx} (hi : i.toNat ≤ 18) (v : Data) (s : State) :
    exec (.pipeParamSet i v) s = done { s with pipe := { s.pipe with p := bankSet s.pipe.p i.toNat ⟨v⟩ } } := by
  have hreg : paramIndexOf i < Config.reference.nParams := Nat.lt_succ_of_le hi
  have hexec : exec (.pipeParamSet i v) s = execPipeParamSet i v s := rfl
  rw [hexec, execPipeParamSet, if_pos hreg]
  rfl

/-- `PARAM_GET` of a register that exists answers its word (R486). -/
theorem exec_pipeParamGet {j : Idx} (hj : j.toNat ≤ 18) (s : State) :
    exec (.pipeParamGet j) s = doneWith s (bankGet s.pipe.p j.toNat) := by
  have hreg : paramIndexOf j < Config.reference.nParams := Nat.lt_succ_of_le hj
  have hexec : exec (.pipeParamGet j) s = execPipeParamGet j s := rfl
  rw [hexec, execPipeParamGet, if_pos hreg]
  rfl

/-- What a step that takes a `PARAM_SET` leaves (R110, R485). -/
theorem step_pipeParamSet {s : State} {i : Idx} {v : Data} {rest : List CommandWord} (hi : i.toNat ≤ 18)
    (hcmds : s.cmds = encode (.pipeParamSet i v) :: rest) :
    ∃ t : State, step s = .next t ∧ t.cmds = rest ∧ t.responses = s.responses ++ [0#64] ∧
      t.pipe.p = bankSet s.pipe.p i.toNat ⟨v⟩ :=
  ⟨_, (step_of_encode (Laws.RowFound.pipeParamSet i v) rfl hcmds).trans (exec_pipeParamSet hi v _), rfl, rfl, rfl⟩

/-- What a step that takes a `PARAM_GET` answers (R110, R486). -/
theorem step_pipeParamGet {s : State} {j : Idx} {rest : List CommandWord} (hj : j.toNat ≤ 18)
    (hcmds : s.cmds = encode (.pipeParamGet j) :: rest) :
    ∃ t : State, step s = .next t ∧ t.cmds = rest ∧
      t.responses = s.responses ++ [wordPair 0#32 (bankGet s.pipe.p j.toNat).bits] :=
  ⟨_, (step_of_encode (Laws.RowFound.pipeParamGet j) rfl hcmds).trans (exec_pipeParamGet hj _), rfl, rfl⟩

/-- A register read after register `i` was given the word `v`. -/
theorem bankGet_paramWritten (p : Bank 19 NUM) {i : Idx} (hi : i.toNat ≤ 18) (j : Idx) (v : Data) :
    (bankGet (bankSet p i.toNat ⟨v⟩) j.toNat).bits = if i = j then v else (bankGet p j.toNat).bits := by
  rw [bankGet_bankSet _ p i.toNat j.toNat ⟨v⟩ (Nat.lt_succ_of_le hi), apply_ite NUM.bits]
  exact if_congr BitVec.toNat_inj rfl rfl

/-- Settles O44: the first step replaces register `i` in the bank, the second reads register `j` of that bank. -/
theorem parameterGetSeesTheLastSet : Obligations.ParameterGetSeesTheLastSet := by
  intro i j v s rest hi hj hcmds
  obtain ⟨u, hset, hucmds, huresp, hp⟩ := step_pipeParamSet hi hcmds
  obtain ⟨t, hget, htcmds, htresp⟩ := step_pipeParamGet hj hucmds
  refine ⟨t, by simp only [steps, hset, hget], htcmds, ?_⟩
  rw [htresp, huresp, hp, bankGet_paramWritten _ hi, List.append_assoc, List.singleton_append]

end Sys2Proof.Machine

/-! The operation map (R113): its rows are in ascending order of their codes, every operation has its row, and the operation
a row builds is encoded with the row's codes and the operand bits the row reads. -/

namespace Sys2Proof.Machine

open Laws

/-! ## The order of the rows (R113) -/

/-- A row's `UNIT` and `OP` as one number, `CW[63:48]` (R111). -/
def rowCode (r : OpRow) : Nat := r.unit.toNat * 256 + r.op.toNat

/-- The map lists its rows by `UNIT`, and those of one unit by `OP`. -/
theorem opRows_ascending : opRows.Pairwise fun a b => rowCode a < rowCode b := by
  have hnext : (opRows.map rowCode).IsChain (· < ·) := by decide +kernel
  exact List.pairwise_map.1 (List.isChain_iff_pairwise.1 hnext)

/-- Settles O3: the codes ascend from row to row, so no two rows share both. -/
theorem operationMapRowsAreDistinct : Obligations.OperationMapRowsAreDistinct := by
  refine ⟨rfl, opRows_ascending.imp ?_⟩
  rintro a b hlt ⟨hunit, hop⟩
  rw [rowCode, rowCode, hunit, hop] at hlt
  exact lt_irrefl _ hlt

/-! ## The row a command word names (R113, R118) -/

theorem findRow_some {unit op : BitVec 8} {r : OpRow} (hfind : findRow unit op = some r) :
    r ∈ opRows ∧ r.unit = unit ∧ r.op = op := by
  have hcodes := List.find?_some hfind
  simp only [Bool.and_eq_true, beq_iff_eq] at hcodes
  exact ⟨List.mem_of_find?_eq_some hfind, hcodes⟩

theorem findRow_none {unit op : BitVec 8} (hnone : ∀ r ∈ opRows, ¬ (r.unit = unit ∧ r.op = op)) :
    findRow unit op = none := by
  simpa [findRow] using hnone

theorem decodeFields_of_findRow_some {unit op : BitVec 8} {r : OpRow} (hfind : findRow unit op = some r) (idx : Idx)
    (data : Data) : decodeFields unit op idx data = .ok (r.build idx data) := by
  simp only [decodeFields, hfind]

/-- Without a row the decoder answers an error, which depends on the codes alone. -/
theorem decodeFields_of_findRow_none {unit op : BitVec 8} (hfind : findRow unit op = none) :
    ∃ e, ∀ idx data, decodeFields unit op idx data = .error e := by
  simp only [decodeFields, hfind]
  split <;> exact ⟨_, fun _ _ => rfl⟩

/-- What is decoded is built by the row of the word's codes. -/
theorem decodeFields_ok {unit op : BitVec 8} {idx : Idx} {data : Data} {i : Instr}
    (hdec : decodeFields unit op idx data = .ok i) :
    ∃ r ∈ opRows, r.unit = unit ∧ r.op = op ∧ i = r.build idx data := by
  cases hfind : findRow unit op with
  | some r =>
    obtain ⟨hmem, hunit, hop⟩ := findRow_some hfind
    rw [decodeFields_of_findRow_some hfind] at hdec
    cases hdec
    exact ⟨r, hmem, hunit, hop, rfl⟩
  | none =>
    obtain ⟨e, herr⟩ := decodeFields_of_findRow_none hfind
    rw [herr] at hdec
    cases hdec

/-! ## Every operation has its row (R113) -/

/-- The row of an operation whose operands fill their fields builds it back as it stands; the six operations with a channel,
a note number or a velocity do so when they are well formed (R114, R115). -/
theorem rowFound (i : Instr) : RowFound.Statement i := by
  cases i with
  | fltProcess c v => exact RowFound.fltProcess c v
  | dlyProcess c v => exact RowFound.dlyProcess c v
  | choProcess c v => exact RowFound.choProcess c v
  | revProcess c v => exact RowFound.revProcess c v
  | pipeNoteOn note vel => exact RowFound.pipeNoteOn note vel
  | pipeNoteOff note => exact RowFound.pipeNoteOff note
  | _ => exact rowFound_of _ rfl rfl fun _ => rfl

/-- Settles O1: the word's codes name the operation's row, and that row builds the operation from the word's operands. -/
theorem decodeOfEncodeIsIdentity : Obligations.DecodeOfEncodeIsIdentity :=
  fun i hwf => decode_encode_of_rowFound (rowFound i) hwf

/-! ## What a row builds (R114, R115) -/

/-- What a mask leaves of a field is at most the mask. -/
theorem and_mask_ble_mask {w : Nat} (x mask : BitVec w) : Nat.ble (x &&& mask).toNat mask.toNat = true := by
  rw [Nat.ble_eq, BitVec.toNat_and]
  exact Nat.and_le_right

theorem channelOk_channelField (idx : Idx) : channelOk (channelField idx) = true := and_mask_ble_mask idx 0x0001#16

theorem noteOk_noteField (idx : Idx) : noteOk (noteField idx) = true := and_mask_ble_mask idx 0x007F#16

theorem velocityOk_velocityField (data : Data) : velocityOk (velocityField data) = true :=
  and_mask_ble_mask data 0x0000007F#32

/-- The row builds well-formed operations only, and the word of one holds the row's codes and the operand bits that the row
reads. -/
def FaithfulRow (r : OpRow) : Prop :=
  ∀ idx data, (r.build idx data).wellFormed = true ∧
    encode (r.build idx data) =
      commandWord r.unit r.op (idx &&& idxMask r.unit r.op) (data &&& dataMask r.unit r.op)

namespace FaithfulRow

variable {unit op : BitVec 8}

/-- A row without operand. -/
theorem noOperand {i : Instr} (hwf : i.wellFormed = true := by rfl)
    (hword : encode i = commandWord unit op 0#16 0#32 := by rfl) (hidx : idxMask unit op = 0#16 := by rfl)
    (hdata : dataMask unit op = 0#32 := by rfl) : FaithfulRow ⟨unit, op, fun _ _ => i⟩ := by
  intro idx data
  rw [hidx, hdata, BitVec.and_zero, BitVec.and_zero]
  exact ⟨hwf, hword⟩

/-- A row that reads `DATA`. -/
theorem ofData {f : Data → Instr} (hwf : ∀ v, (f v).wellFormed = true := by exact fun _ => rfl)
    (hword : ∀ v, encode (f v) = commandWord unit op 0#16 v := by exact fun _ => rfl)
    (hidx : idxMask unit op = 0#16 := by rfl) (hdata : dataMask unit op = BitVec.allOnes 32 := by rfl) :
    FaithfulRow ⟨unit, op, fun _ data => f data⟩ := by
  intro idx data
  rw [hidx, hdata, BitVec.and_zero, BitVec.and_allOnes]
  exact ⟨hwf data, hword data⟩

/-- A row that reads `IDX[0]` and `DATA`. -/
theorem ofChannel {f : Idx → Data → Instr} (hwf : ∀ c v, (f c v).wellFormed = channelOk c := by exact fun _ _ => rfl)
    (hword : ∀ c v, encode (f c v) = commandWord unit op c v := by exact fun _ _ => rfl)
    (hidx : idxMask unit op = 0x0001#16 := by rfl) (hdata : dataMask unit op = BitVec.allOnes 32 := by rfl) :
    FaithfulRow ⟨unit, op, fun idx data => f (channelField idx) data⟩ := by
  intro idx data
  rw [hidx, hdata, BitVec.and_allOnes]
  exact ⟨(hwf _ data).trans (channelOk_channelField idx), hword _ data⟩

end FaithfulRow

/-! ## The rows, unit by unit (R113) -/

/-- The rows of engine `k`. -/
def Engine.rows : Engine → List OpRow
  | .sine => e0Rows
  | .triangle => e1Rows
  | .square => e2Rows
  | .saw => e3Rows
  | .supersaw => e4Rows
  | .virtualAnalog => e5Rows
  | .fm => e6Rows
  | .formant => e7Rows
  | .additive => e8Rows
  | .chord => e9Rows
  | .pluckedString => e10Rows
  | .pwm => e11Rows

/-- The setters of an engine read `DATA`, its other operations read nothing (R150). -/
theorem Engine.rows_faithful (k : Engine) : k.rows.Forall FaithfulRow := by
  cases k <;> exact ⟨.noOperand, .ofData, .ofData, .ofData, .ofData, .ofData, .ofData, .noOperand⟩

theorem adsrRows_faithful : adsrRows.Forall FaithfulRow :=
  ⟨.noOperand, .ofData, .ofData, .ofData, .ofData, .ofData, .noOperand, .noOperand, .noOperand⟩

theorem adRows_faithful : adRows.Forall FaithfulRow :=
  ⟨.noOperand, .ofData, .ofData, .ofData, .noOperand, .noOperand, .noOperand⟩

theorem lfoRows_faithful : lfoRows.Forall FaithfulRow :=
  ⟨.noOperand, .ofData, .ofData, .noOperand, .ofData, .ofData⟩

theorem fltRows_faithful : fltRows.Forall FaithfulRow :=
  ⟨.noOperand, .ofData, .ofChannel, .ofData, .ofData, .ofData⟩

theorem dlyRows_faithful : dlyRows.Forall FaithfulRow :=
  ⟨.noOperand, .ofChannel, .ofData⟩

theorem choRows_faithful : choRows.Forall FaithfulRow :=
  ⟨.noOperand, .ofChannel, .ofData⟩

theorem revRows_faithful : revRows.Forall FaithfulRow :=
  ⟨.noOperand, .ofChannel, .ofData⟩

/-- The operations of PIPE read `IDX` and `DATA` whole, or the note number and the velocity in them. -/
theorem pipeRows_faithful : pipeRows.Forall FaithfulRow := by
  refine ⟨.noOperand, fun idx data => ⟨rfl, ?_⟩, fun idx data => ⟨rfl, ?_⟩, fun idx data => ⟨?_, rfl⟩,
    fun idx data => ⟨noteOk_noteField idx, ?_⟩, .ofData⟩
  · exact congrArg₂ (commandWord _ _) BitVec.and_allOnes.symm BitVec.and_allOnes.symm
  · exact congrArg₂ (commandWord _ _) BitVec.and_allOnes.symm BitVec.and_zero.symm
  · exact Bool.and_eq_true_iff.2 ⟨noteOk_noteField idx, velocityOk_velocityField data⟩
  · exact congrArg (commandWord _ _ (noteField idx)) BitVec.and_zero.symm

theorem opRows_faithful : ∀ r ∈ opRows, FaithfulRow r := by
  rw [← List.forall_iff_forall_mem]
  unfold opRows
  simp only [List.forall_append, and_assoc]
  exact ⟨Engine.rows_faithful .sine, Engine.rows_faithful .triangle, Engine.rows_faithful .square,
    Engine.rows_faithful .saw, Engine.rows_faithful .supersaw, Engine.rows_faithful .virtualAnalog,
    Engine.rows_faithful .fm, Engine.rows_faithful .formant, Engine.rows_faithful .additive, Engine.rows_faithful .chord,
    Engine.rows_faithful .pluckedString, Engine.rows_faithful .pwm, adsrRows_faithful, adRows_faithful, lfoRows_faithful,
    fltRows_faithful, dlyRows_faithful, choRows_faithful, revRows_faithful, pipeRows_faithful⟩

/-- Settles O2: the word is read by a row of its codes, and the rows are faithful. -/
theorem decodedOperationIsWellFormed : Obligations.DecodedOperationIsWellFormed := by
  intro cw i hdec
  obtain ⟨r, hmem, hunit, hop, rfl⟩ := decodeFields_ok hdec
  obtain ⟨hwf, hword⟩ := opRows_faithful r hmem (idxField cw) (dataField cw)
  refine ⟨hwf, ?_, ?_⟩
  · rw [hword, unitField_commandWord, hunit]
  · rw [hword, opField_commandWord, hop]

/-! ## The operand bits an operation does not read (R118) -/

/-- The bits outside the masks do not matter: the operation a row builds is encoded with the bits inside them, and that
word decodes to the same operation. -/
theorem decodeFields_masked (unit op : BitVec 8) (idx : Idx) (data : Data) :
    decodeFields unit op (idx &&& idxMask unit op) (data &&& dataMask unit op) = decodeFields unit op idx data := by
  cases hfind : findRow unit op with
  | some r =>
    obtain ⟨hmem, rfl, rfl⟩ := findRow_some hfind
    obtain ⟨hwf, hword⟩ := opRows_faithful r hmem idx data
    have hback := decodeOfEncodeIsIdentity _ hwf
    rw [hword] at hback
    simpa [decode, decodeFields_of_findRow_some hfind idx data] using hback
  | none =>
    obtain ⟨e, herr⟩ := decodeFields_of_findRow_none hfind
    rw [herr, herr]

/-! ## The step (R110, R118, R552) -/

section
variable {s : State} {cw : CommandWord} {rest : List CommandWord} (hcmds : s.cmds = cw :: rest)
include hcmds

theorem step_of_decode_ok {i : Instr} (hdec : decode cw = .ok i) : step s = exec i { s with cmds := rest } := by
  simp only [step, stepWith, State.Of.takeCommand, hcmds, hdec]

theorem step_of_decode_error {e : DecodeError} (hdec : decode cw = .error e) :
    step s = .next (({ s with cmds := rest } : State).respond 0#32 0#32) := by
  simp only [step, stepWith, State.Of.takeCommand, hcmds, hdec, done]

end

theorem step_of_no_command {s : State} (hcmds : s.cmds = []) : step s = .next s := by
  simp only [step, stepWith, State.Of.takeCommand, hcmds]

/-- Settles O6: of the step's three cases, the command word that is an operation and the empty port. -/
theorem stepRunsTheDecodedOperation : Obligations.StepRunsTheDecodedOperation :=
  ⟨fun _ _ _ _ hcmds hdec => step_of_decode_ok hcmds hdec, fun _ hcmds => step_of_no_command hcmds⟩

/-- Settles O5: codes without a row make the decoder answer an error, which the step answers with a zero word; words that
agree on the bits an operation reads decode like the word with those bits alone. -/
theorem reservedWordIsNoOperationAndIgnoredFieldsDoNotMatter :
    Obligations.ReservedWordIsNoOperationAndIgnoredFieldsDoNotMatter := by
  refine ⟨fun s cw rest hcmds hnone => ?_, fun unit op idx idx' data data' hidx hdata => ?_⟩
  · obtain ⟨e, herr⟩ := decodeFields_of_findRow_none (findRow_none hnone)
    exact step_of_decode_error hcmds (herr _ _)
  · rw [← decodeFields_masked unit op idx data, hidx, hdata, decodeFields_masked]

end Sys2Proof.Machine

/-! The engine contract (40_tone_engine_contract.md): what the setters of every engine store (R153 to R158) and the
primitives that the bodies share (R160 to R167), in the reference configuration. -/

namespace Sys2Proof.Machine

/-! ## Sample rates (R153, R351, R366, R382, R404) -/

/-- The rates that are stored are the positive finite words that are no denormals (log 8). -/
theorem isRate_eq (x : NUM) : x.isRate = (x.isFinite && !x.sign && Nat.ble NUM.denormMinMag x.mag) := by
  rw [Bool.eq_iff_iff, NUM.isRate_iff, ← NUM.isFinite_iff]
  simp only [Bool.and_eq_true, Bool.not_eq_true', Nat.ble_eq, NUM.denormMinMag]
  tauto

section
variable {α : Type} (x : NUM) (store : NUM → α) (u : α)

/-- A sample rate as every unit stores it: a rate, which `ftz` leaves, or nothing changes. -/
theorem setRate_eq : (if x.isRate then store x.ftz else u) =
    if x.isFinite && !x.sign && Nat.ble NUM.denormMinMag x.mag then store x else u := by
  rw [← isRate_eq]
  split
  next hrate => rw [ftz_of_isRate hrate]
  next => rfl

/-- The same for an engine (R153). -/
theorem EngineRegs.setSr_eq (r : EngineRegs NUM) : r.setSr Config.reference x =
    if x.isFinite && !x.sign && Nat.ble NUM.denormMinMag x.mag then { r with sr := x } else r :=
  setRate_eq x (fun sr => ({ r with sr := sr } : EngineRegs NUM)) r

/-- The same for another unit, with `put` for the unit's place in the state. -/
theorem done_setRate (put : α → State) : done (put (if x.isRate then store x.ftz else u)) =
    .next ((if x.isFinite && !x.sign && Nat.ble NUM.denormMinMag x.mag then put (store x)
      else put u).respond 0#32 0#32) := by
  rw [setRate_eq, apply_ite put, done]

end

section
variable (v : Data) (s : State)

theorem exec_opSetSr (k : Engine) : exec (k.opSetSr v) s =
    .next ((s.withRegs k ((s.regs k).setSr Config.reference (numOf v))).respond 0#32 0#32) := by
  cases k <;> rfl

theorem exec_opSetFreq (k : Engine) : exec (k.opSetFreq v) s =
    .next ((s.withRegs k ((s.regs k).setFreq Config.reference (numOf v))).respond 0#32 0#32) := by
  cases k <;> rfl

theorem exec_opSetHarm (k : Engine) : exec (k.opSetHarm v) s =
    .next ((s.withRegs k ((s.regs k).setHarm Config.reference (numOf v))).respond 0#32 0#32) := by
  cases k <;> rfl

theorem exec_opSetTimb (k : Engine) : exec (k.opSetTimb v) s =
    .next ((s.withRegs k ((s.regs k).setTimb Config.reference (numOf v))).respond 0#32 0#32) := by
  cases k <;> rfl

theorem exec_opSetMorph (k : Engine) : exec (k.opSetMorph v) s =
    .next ((s.withRegs k ((s.regs k).setMorph Config.reference (numOf v))).respond 0#32 0#32) := by
  cases k <;> rfl

theorem exec_opSetLevel (k : Engine) : exec (k.opSetLevel v) s =
    .next ((s.withRegs k ((s.regs k).setLevel Config.reference (numOf v))).respond 0#32 0#32) := by
  cases k <;> rfl

end

/-- Settles O8: each of the sixteen setters stores `ftz` of its operand when that is a rate, and of a rate `ftz` is the
rate itself. -/
theorem sampleRateIsStoredOnlyWhenPositiveAndFinite : Obligations.SampleRateIsStoredOnlyWhenPositiveAndFinite := by
  intro v s
  refine ⟨fun k => ?_, ?_, ?_, ?_, ?_⟩
  · rw [exec_opSetSr, EngineRegs.setSr_eq]
  · exact done_setRate (numOf v) (fun sr => { s.adsr with sr := sr }) s.adsr fun u => { s with adsr := u }
  · exact done_setRate (numOf v) (fun sr => { s.ad with sr := sr }) s.ad fun u => { s with ad := u }
  · exact done_setRate (numOf v) (fun sr => { s.lfo with sr := sr }) s.lfo fun u => { s with lfo := u }
  · exact done_setRate (numOf v) (fun sr => { s.flt with
        sr := sr
        fc := (s.flt.fc.clamp Config.reference.fcMin (Config.reference.fcMaxRatio.mul (numOf v))).ftz })
      s.flt fun u => { s with flt := u }

/-- Settles O10: the setter stores what the rule says (R154). -/
theorem frequencyIsSanitisedToHalfTheSampleRate : Obligations.FrequencyIsSanitisedToHalfTheSampleRate :=
  fun k v s => exec_opSetFreq v s k

/-- Settles O11: each of the four setters stores what its rule says (R155 to R158). -/
theorem timbreControlsAndLevelAreSanitisedToTheUnitRange :
    Obligations.TimbreControlsAndLevelAreSanitisedToTheUnitRange :=
  fun k v s => ⟨exec_opSetHarm v s k, exec_opSetTimb v s k, exec_opSetMorph v s k, exec_opSetLevel v s k⟩

/-! ## The shared primitives (R160 to R167) -/

/-- `INC_MAX` and the width of the square are one half, however the fraction is written. -/
theorem half_eq : NUM.ofRat 1 2 = NUM.ofRat 5 10 := by decide +kernel

theorem inc_reference (f sr : NUM) : inc Config.reference f sr = ((f.max NUM.zero).div sr).min (NUM.ofRat 5 10) := by
  rw [← half_eq]
  rfl

theorem blsquare_reference (p dt : NUM) :
    blsquare Config.reference p dt = blpulse Config.reference p dt (NUM.ofRat 5 10) := by
  rw [← half_eq]
  rfl

theorem rngStep_eq (u : BitVec 32) : rngStep u = 1664525#32 * u + 1013904223#32 := by
  rw [rngStep, BitVec.add_comm]

theorem rngOut_eq (u : BitVec 32) : rngOut u = NUM.ofRat ((u.toNat / 256 : Nat) : Int) (2 ^ 24) := by
  rw [rngOut, show (2 : Nat) ^ 24 = 16777216 by rfl]

/-- Settles O9: the model's primitives are the formulas of the rules up to the spelling of `INC_MAX`, of the square's width
and of the generator's constants. -/
theorem contractPrimitivesAreAsWritten : Obligations.ContractPrimitivesAreAsWritten :=
  fun f sr t dt p _ _ _ u _ _ =>
    ⟨inc_reference f sr, NUM.polyblep_reference t dt, rfl, rfl, blsquare_reference p dt, rngStep_eq u, rngOut_eq u,
      rfl, rfl⟩

end Sys2Proof.Machine

/-! The output stage keeps a sample within its level (R166, R169), in every admissible configuration. -/

namespace Sys2Proof.Config.Format

variable {N : Type} {F : Format N}

/-- A word between two finite ones is finite, its value between theirs. -/
theorem value_between (ho : F.OrderAdmissible) {lo v hi : N} (hlo : F.isFinite lo = true) (hhi : F.isFinite hi = true)
    (hl : F.le lo v = true) (hh : F.le v hi = true) :
    F.isFinite v = true ∧ F.value lo ≤ F.value v ∧ F.value v ≤ F.value hi := by
  have hv := ho.between lo v hi hlo hhi hl hh
  exact ⟨hv, (ho.le_value lo v hlo hv).1 hl, (ho.le_value v hi hv hhi).1 hh⟩

/-- What a number between the values of two finite words rounds to is finite and between them. -/
theorem Rounds.between (ho : F.OrderAdmissible) {v lo hi : N} {x : ℚ} (h : F.Rounds v (x : ℝ))
    (hlo : F.isFinite lo = true) (hhi : F.isFinite hi = true) (hl : F.value lo ≤ x) (hh : x ≤ F.value hi) :
    F.isFinite v = true ∧ F.value lo ≤ F.value v ∧ F.value v ≤ F.value hi :=
  value_between ho hlo hhi ((h.2 lo hlo).1 (by exact_mod_cast hl)) ((h.2 hi hhi).2 (by exact_mod_cast hh))

/-- A product with a factor in [0, 1] on the left is in [0, b]. -/
theorem mul_between (ho : F.OrderAdmissible) (ha : F.ArithmeticAdmissible) {a b : N} (hfa : F.isFinite a = true)
    (ha0 : 0 ≤ F.value a) (ha1 : F.value a ≤ 1) (hfb : F.isFinite b = true) (hb0 : 0 ≤ F.value b) :
    F.isFinite (F.mul a b) = true ∧ 0 ≤ F.value (F.mul a b) ∧ F.value (F.mul a b) ≤ F.value b := by
  have h := (ha.mul a b hfa hfb).between ho ha.zero.1 hfb (by rw [ha.zero.2]; positivity)
    (mul_le_of_le_one_left hb0 ha1)
  rwa [ha.zero.2] at h

/-- The value of a word of magnitude at most 1. -/
theorem abs_value_le_one (ho : F.OrderAdmissible) (ha : F.ArithmeticAdmissible) {t : N} (hf : F.isFinite t = true)
    (ht : F.le (F.abs t) F.one = true) : |F.value t| ≤ 1 := by
  obtain ⟨hfabs, habs⟩ := ha.abs t hf
  rw [← habs, ← ha.one.2]
  exact (ho.le_value _ _ hfabs ha.one.1).1 ht

/-- A product with a factor of magnitude at most 1 on the right is at most the other factor in magnitude. -/
theorem abs_mul_le (ho : F.OrderAdmissible) (ha : F.ArithmeticAdmissible) {p t : N} (hfp : F.isFinite p = true)
    (hp0 : 0 ≤ F.value p) (hft : F.isFinite t = true) (ht : |F.value t| ≤ 1) :
    F.le (F.abs (F.mul p t)) p = true := by
  obtain ⟨hfn, hn⟩ := ha.neg p hfp
  obtain ⟨hl, hh⟩ := abs_le.1 ht
  obtain ⟨hfm, hml, hmh⟩ := (ha.mul p t hfp hft).between ho hfn hfp
    (by rw [hn]; nlinarith) (mul_le_of_le_one_right hp0 hh)
  obtain ⟨hfa, hv⟩ := ha.abs _ hfm
  rw [ho.le_value _ _ hfa hfp, hv]
  exact abs_le.2 ⟨hn ▸ hml, hmh⟩

end Sys2Proof.Config.Format

namespace Sys2Proof.Machine

variable {N : Type} [DecidableEq N] {cfg : Config.Parameters N} {k : Nat} {r : EngineRegs N}

/-- The gain of an engine's output is in [0, 1.5] (R166). -/
theorem outGain_within (h : cfg.Admissible) (hk : k < 12) (hl : cfg.le cfg.zero r.level = true)
    (hh : cfg.le r.level cfg.one = true) :
    cfg.isFinite (cfg.mul r.level (cfg.engineGain k)) = true ∧ 0 ≤ cfg.value (cfg.mul r.level (cfg.engineGain k)) ∧
      cfg.value (cfg.mul r.level (cfg.engineGain k)) ≤ 3 / 2 := by
  obtain ⟨hf, h0, h1⟩ := Config.Format.value_between h.order h.arithmetic.zero.1 h.arithmetic.one.1 hl hh
  rw [h.arithmetic.zero.2] at h0
  rw [h.arithmetic.one.2] at h1
  obtain ⟨hfg, hg0, hg⟩ := h.globals.engineGain k hk
  obtain ⟨hfm, hm0, hm⟩ := Config.Format.mul_between h.order h.arithmetic hf h0 h1 hfg hg0.le
  exact ⟨hfm, hm0, hm.trans hg⟩

/-- A sample of the output stage is at most `level · ENGINE_GAIN[k]` in magnitude, and that at most 1.5 (R166, R169). -/
theorem outLevel_bounded (h : cfg.Admissible) (hk : k < 12) (hl : cfg.le cfg.zero r.level = true)
    (hh : cfg.le r.level cfg.one = true) {x : N} (hx : cfg.isNaN (cfg.add x (r.noise cfg)) = false) :
    cfg.le (cfg.abs (outLevel cfg k r x)) (cfg.mul r.level (cfg.engineGain k)) = true ∧
      cfg.le (cfg.abs (outLevel cfg k r x)) (cfg.ofRat 3 2) = true := by
  obtain ⟨hf, h0, hm⟩ := outGain_within h hk hl hh
  obtain ⟨hft, ht⟩ := h.functions.tanh_bound _ hx
  have hout : cfg.le (cfg.abs (outLevel cfg k r x)) (cfg.mul r.level (cfg.engineGain k)) = true :=
    Config.Format.abs_mul_le h.order h.arithmetic hf h0 hft
      (Config.Format.abs_value_le_one h.order h.arithmetic hft ht)
  have hthree := ((h.arithmetic.ofRat 3 2 (by decide)).2 _ hf).1 (((Rat.cast_le (K := ℝ)).2 hm).trans_eq (by norm_num))
  exact ⟨hout, h.order.le_trans _ _ _ hout hthree⟩

end Sys2Proof.Machine

/-! A NaN in the engine's state is the one way to a sample outside the level (log 6). -/

namespace Sys2Proof.NUM

variable {a b x : NUM}

/-- The NaN of an operation is a NaN, whatever its payload. -/
theorem nan_isNaN (op : Config.NumOp) (a b : NUM) : (nan op a b).isNaN = true := by
  have hmag : (nan op a b).mag = ((nan op a b).bits.setWidth 31).toNat := (BitVec.toNat_setWidth ..).symm
  have hquiet : (0x7FC00000#31).toNat ≤ ((nan op a b).bits.setWidth 31).toNat := by
    rw [nan, BitVec.setWidth_or, BitVec.toNat_or]
    exact Nat.right_le_or
  rw [isNaN_iff, hmag]
  exact lt_of_lt_of_le (by decide) hquiet

theorem tanh_isNaN (h : x.isNaN = true) : x.tanh.isNaN = true := by
  rw [tanh, if_pos h]
  exact nan_isNaN ..

theorem mul_isNaN_right (h : b.isNaN = true) : (a.mul b).isNaN = true := by
  rw [mul, if_pos (by rw [h, Bool.or_true])]
  exact nan_isNaN ..

end Sys2Proof.NUM

namespace Sys2Proof.Machine

/-- In the reference configuration, where the gains are 1, the bound is the level itself (R166, log 1). -/
theorem outLevel_reference {k : Nat} {r : EngineRegs NUM} (hk : k < 12) (hl : r.level.inUnit = true) (x : NUM) :
    (outLevel Config.reference k r x).isNaN = true ∨ (outLevel Config.reference k r x).abs.le r.level = true := by
  cases hx : (x.add (r.noise Config.reference)).isNaN with
  | true => exact .inl (NUM.mul_isNaN_right (NUM.tanh_isNaN hx))
  | false =>
    obtain ⟨h0, h1⟩ := Bool.and_eq_true_iff.1 hl
    obtain ⟨hf, hl0, -⟩ := NUM.upTo_one_iff.2 hl
    have hgain : (r.level.mul NUM.one).le r.level = true :=
      ((NUM.mul_rounds hf (by decide +kernel)).2 _ hf).2 (by rw [NUM.value_one, mul_one]; exact le_rfl)
    exact .inr (NUM.le_trans (outLevel_bounded Config.reference_admissible hk h0 h1 hx).1 hgain)

end Sys2Proof.Machine

/-! The raw sample of a tame engine (R168): no body divides by 0 or takes the sine of an infinity, so that it is a number of
bounded size. The exponents of the bounds are not sharp. -/

namespace Sys2Proof.NUM

open Machine

variable {a b t x : NUM} {k m n : Nat}

/-! ## Bounds of results, each exponent read off those of the operands -/

theorem below_const (h : a.mag ≤ (127 + m) * 2 ^ 23) : a.Below m := h

theorem oneLe_const (h : a.isNaN = false ∧ a.sign = false ∧ 127 * 2 ^ 23 ≤ a.mag) : a.OneLe := h

theorem Below.add (ha : a.Below m) (hb : b.Below n) (h : m ⊔ n < 127 := by decide) : (a.add b).Below (m ⊔ n + 1) :=
  below_add (ha.mono (le_max_left ..)) (hb.mono (le_max_right ..)) h

theorem Below.sub (ha : a.Below m) (hb : b.Below n) (h : m ⊔ n < 127 := by decide) : (a.sub b).Below (m ⊔ n + 1) :=
  below_sub (ha.mono (le_max_left ..)) (hb.mono (le_max_right ..)) h

theorem Below.mul (ha : a.Below m) (hb : b.Below n) (h : m + n < 128 := by decide) : (a.mul b).Below (m + n) :=
  below_mul ha hb h

theorem Below.lerp (ha : a.Below m) (hb : b.Below n) (ht : t.Below k) (h : m ⊔ n + 1 + k < 127 := by decide) :
    (a.lerp b t).Below (m ⊔ n + k + 2) :=
  below_lerp (ha.mono (le_max_left ..)) (hb.mono (le_max_right ..)) ht h

theorem Below.sin (ha : a.Below m) (h : m < 128 := by decide) : a.sin.Below 1 := below_sin (ha.finite h)

/-- A quotient by a word of at least 1. -/
theorem Below.div (ha : a.Below m) (hb : b.OneLe) (hfb : b.Below n) (h : m < 128 := by decide)
    (hn : n < 128 := by decide) : (a.div b).Below m := by
  obtain ⟨-, -, hone⟩ := hb
  exact below_div (k := 0) ha (hfb.finite hn) (by decide) hone h

theorem below_zero : zero.Below 0 := below_const (by decide +kernel)

theorem below_one : one.Below 0 := below_const (by decide +kernel)

theorem below_two : two.Below 1 := below_const (by decide +kernel)

theorem one_oneLe : one.OneLe := oneLe_const (by decide +kernel)

/-! ## Numbers that are not below 0, and numbers of at least 1 -/

theorem nonneg_of_inUnit (h : a.inUnit = true) : a.Nonneg := nonneg_iff.2 (Bool.and_eq_true_iff.1 h).1

theorem Nonneg.add (ha : a.Nonneg) (hb : b.Nonneg) (ba : a.Below m) (bb : b.Below n) (hm : m < 128 := by decide)
    (hn : n < 128 := by decide) : (a.add b).Nonneg :=
  nonneg_add ha hb (ba.finite hm) (bb.finite hn)

theorem Nonneg.mul (ha : a.Nonneg) (hb : b.Nonneg) (ba : a.Below m) (bb : b.Below n) (hm : m < 128 := by decide)
    (hn : n < 128 := by decide) : (a.mul b).Nonneg :=
  nonneg_mul ha hb (ba.finite hm) (bb.finite hn)

theorem OneLe.add (ha : a.OneLe) (hb : b.Nonneg) (ba : a.Below m) (bb : b.Below n) (hm : m < 128 := by decide)
    (hn : n < 128 := by decide) : (a.add b).OneLe :=
  oneLe_add ha hb (ba.finite hm) (bb.finite hn)

/-! ## Sums and tables -/

/-- A sum whose terms may be left out. -/
theorem below_foldl_step {step : NUM → Nat → NUM} (l : List Nat) (m : Nat) {acc : NUM} (ha : acc.Below m)
    (hstep : ∀ i ∈ l, ∀ n acc, m ≤ n → n < 127 → acc.Below n → (step acc i).Below (n + 1)) (h : m + l.length < 128) :
    (l.foldl step acc).Below (m + l.length) := by
  induction l generalizing acc m with
  | nil => exact ha
  | cons i l ih =>
    rw [List.length_cons] at h ⊢
    have htail := ih (m + 1) (hstep i (by simp) m acc le_rfl (by omega) ha)
      (fun j hj n acc hn => hstep j (by simp [hj]) n acc (by omega)) (by omega)
    exact htail.mono (by omega)

/-- A sum that starts at 1 or more, of terms that are not below 0. -/
theorem oneLe_foldl {term : Nat → NUM} (l : List Nat) (m : Nat) {acc : NUM} (ha : acc.OneLe) (hb : acc.Below m)
    (hn : ∀ i ∈ l, (term i).Nonneg) (ht : ∀ i ∈ l, (term i).Below m) (h : m + l.length < 128) :
    (l.foldl (fun acc i => acc.add (term i)) acc).OneLe := by
  induction l generalizing acc m with
  | nil => exact ha
  | cons i l ih =>
    rw [List.length_cons] at h
    have bi := ht i (by simp)
    exact ih (m + 1) (ha.add (hn i (by simp)) hb bi (by omega) (by omega)) (below_add hb bi (by omega))
      (fun j hj => hn j (by simp [hj])) (fun j hj => (ht j (by simp [hj])).mono (by omega)) (by omega)

/-- What holds of 0 and of every entry of a table holds of an entry at any index. -/
theorem tableAt_of_all {P : NUM → Prop} {l : List NUM} (h0 : P zero) (h : ∀ v ∈ l, P v) (i : Nat) : P (tableAt l i) := by
  unfold tableAt
  rw [List.getD_eq_getElem?_getD]
  cases hv : l[i]? with
  | none => exact h0
  | some v => exact h v (List.mem_of_getElem? hv)

theorem tableAt2_of_all {P : NUM → Prop} {l : List (List NUM)} (h0 : P zero) (h : ∀ r ∈ l, ∀ v ∈ r, P v) (i j : Nat) :
    P (tableAt2 l i j) := by
  refine tableAt_of_all h0 ?_ j
  rw [List.getD_eq_getElem?_getD]
  cases hr : l[i]? with
  | none => exact List.forall_mem_nil _
  | some r => exact h r (List.mem_of_getElem? hr)

/-! ## The shapes of a phase, for the increment of any frequency (R160 to R162) -/

section
variable {p sr : NUM} (hp : p.inPhase = true) (hsr : sr.isRate = true) (f pw : NUM)
include hp hsr

theorem below_blsaw_inc : (blsaw Config.reference p (inc Config.reference f sr)).Below 58 := by
  obtain ⟨hnonneg, hmag⟩ := inc_within f hsr
  exact below_blsaw hp hnonneg hmag

theorem below_blpulse_inc : (blpulse Config.reference p (inc Config.reference f sr) pw).Below 58 := by
  obtain ⟨hnonneg, hmag⟩ := inc_within f hsr
  exact below_blpulse pw hp hnonneg hmag

theorem below_blsquare_inc : (blsquare Config.reference p (inc Config.reference f sr)).Below 58 :=
  below_blpulse_inc hp hsr f _

end

theorem below_sinTurn_phase {p : NUM} (hp : p.inPhase = true) : (sinTurn Config.reference p).Below 1 :=
  below_sinTurn (below_of_inPhase hp)

/-- The brightness filter, its operands of any two sizes (R167). -/
theorem Below.bright {r : EngineRegs NUM} {lp : NUM} (hlp : lp.Below m) (hx : x.Below n) (hr : r.InRange)
    (h : m ⊔ n < 120 := by decide) : (bright Config.reference r lp x).Below (m ⊔ n + 4) :=
  below_bright hr.harm (hlp.mono (le_max_left ..)) (hx.mono (le_max_right ..)) h

end Sys2Proof.NUM

namespace Sys2Proof.Machine

open NUM

/-! ## E0 to E3 (R194, R204, R214, R224) -/

theorem SineOsc.raw_below {e : SineOsc NUM} (hr : e.regs.InRange) (hp : e.ph.inPhase = true) :
    (e.raw Config.reference).Below 7 := by
  have bmorph := below_of_inUnit hr.morph
  have bth := (below_const (m := 3) (a := Config.reference.twoPi) (by decide +kernel)).mul (below_of_inPhase hp)
  have bh2 : Config.reference.sineH2.Below 0 := below_const (by decide +kernel)
  have bh3 : Config.reference.sineH3.Below 0 := below_const (by decide +kernel)
  have bpm : Config.reference.sinePm.Below 0 := below_const (by decide +kernel)
  have bthree : (ofNat 3).Below 2 := below_const (by decide +kernel)
  have bh := (below_of_inUnit hr.harm).mul bh2
  have bt := (below_of_inUnit hr.timb).mul bh3
  have nh := (nonneg_of_inUnit hr.harm).mul (nonneg_iff.2 (by decide +kernel)) (below_of_inUnit hr.harm) bh2
  have nt := (nonneg_of_inUnit hr.timb).mul (nonneg_iff.2 (by decide +kernel)) (below_of_inUnit hr.timb) bh3
  have bsum := ((bth.add ((bmorph.mul bpm).mul bth.sin)).sin.add (bh.mul (below_two.mul bth).sin)).add
    (bt.mul (bthree.mul bth).sin)
  have hnorm := (one_oneLe.add nh below_one bh).add nt (below_one.add bh) bt
  exact (bsum.div hnorm ((below_one.add bh).add bt)).mono (by decide)

theorem TriangleOsc.brightened_below {e : TriangleOsc NUM} (hr : e.regs.InRange) (hp : e.ph.inPhase = true)
    (hi : e.integ.tame = true) (hl : e.lp.tame = true) : (e.brightened Config.reference).Below 38 := by
  have bshape := (below_of_tame hi).lerp (below_sinTurn_phase hp) (below_of_inUnit hr.morph)
  exact ((below_of_tame hl).bright bshape hr).mono (by decide)

theorem TriangleOsc.raw_below {e : TriangleOsc NUM} (hr : e.regs.InRange) (hp : e.ph.inPhase = true)
    (hi : e.integ.tame = true) (hl : e.lp.tame = true) :
    ((one.add e.regs.timb).mul (e.brightened Config.reference)).Below 39 :=
  ((below_one.add (below_of_inUnit hr.timb)).mul (brightened_below hr hp hi hl)).mono (by decide)

theorem SquareOsc.brightened_below {e : SquareOsc NUM} (hr : e.regs.InRange) (hp : e.ph.inPhase = true)
    (hl : e.lp.tame = true) : (e.brightened Config.reference).Below 65 := by
  have bspan : Config.reference.sqPwSpan.Below 0 := below_const (by decide +kernel)
  have bhalf : (ofRat 1 2).Below 0 := below_const (by decide +kernel)
  have bwidth := bhalf.add (bspan.mul (below_of_inUnit hr.timb))
  have bpulse := below_blpulse_inc hp hr.sr e.regs.freq ((ofRat 1 2).add (Config.reference.sqPwSpan.mul e.regs.timb))
  have bshape := (bpulse.sub ((below_two.mul bwidth).sub below_one)).lerp (below_sinTurn_phase hp)
    (below_of_inUnit hr.morph)
  exact ((below_of_tame hl).bright bshape hr).mono (by decide)

/-- A saw cross-faded into a square (R224, R245, R265). -/
theorem saw_lerp_square_below {p sr t : NUM} (hp : p.inPhase = true) (hsr : sr.isRate = true) (ht : t.inUnit = true)
    (f : NUM) : ((blsaw Config.reference p (inc Config.reference f sr)).lerp
      (blsquare Config.reference p (inc Config.reference f sr)) t).Below 60 :=
  ((below_blsaw_inc hp hsr f).lerp (below_blsquare_inc hp hsr f) (below_of_inUnit ht)).mono (by decide)

theorem SawOsc.brightened_below {e : SawOsc NUM} (hr : e.regs.InRange) (hp : e.ph.inPhase = true)
    (hl : e.lp.tame = true) : (e.brightened Config.reference).Below 66 := by
  have bedge := saw_lerp_square_below hp hr.sr hr.timb e.regs.freq
  have bshape := bedge.lerp (below_sinTurn_phase hp) (below_of_inUnit hr.morph)
  exact ((below_of_tame hl).bright bshape hr).mono (by decide)

/-! ## E4 (R234) -/

theorem SupersawBank.sums_l (e : SupersawBank NUM) : (e.sums Config.reference).l =
    (List.range 9).foldl (fun acc i => acc.add (((e.gain Config.reference i).mul
      (one.sub (tableAt Config.reference.ssPan i))).mul (e.saw Config.reference i))) zero :=
  (List.foldl_hom Stereo.l fun _ _ => rfl).symm

theorem SupersawBank.sums_r (e : SupersawBank NUM) : (e.sums Config.reference).r =
    (List.range 9).foldl (fun acc i => acc.add (((e.gain Config.reference i).mul
      (tableAt Config.reference.ssPan i)).mul (e.saw Config.reference i))) zero :=
  (List.foldl_hom Stereo.r fun _ _ => rfl).symm

theorem ssPan_below (i : Nat) : (tableAt Config.reference.ssPan i).Below 0 := by
  have hall : ∀ v ∈ Config.reference.ssPan, v.mag ≤ 127 * 2 ^ 23 := by decide +kernel
  exact tableAt_of_all below_zero hall i

section
variable {e : SupersawBank NUM} (hr : e.regs.InRange)
include hr

theorem SupersawBank.gain_below (i : Nat) : (e.gain Config.reference i).Below 1 := by
  have bmin : Config.reference.ssSideMin.Below 0 := below_const (by decide +kernel)
  have brest : (one.sub Config.reference.ssSideMin).Below 0 := below_const (by decide +kernel)
  unfold gain
  split
  · exact below_one.mono (by decide)
  · exact (bmin.add (brest.mul (below_of_inUnit hr.timb))).mono (by decide)

variable (hp : e.ph.inPhase = true)
include hp

theorem SupersawBank.saw_below (i : Nat) : (e.saw Config.reference i).Below 60 := by
  have hphase := bankGet_inPhase hp i
  exact ((below_blsaw_inc hphase hr.sr _).lerp (below_sinTurn_phase hphase) (below_of_inUnit hr.morph)).mono (by decide)

theorem SupersawBank.term_below (i : Nat) {pan : NUM} (hpan : pan.Below 1) :
    (((e.gain Config.reference i).mul pan).mul (e.saw Config.reference i)).Below 62 :=
  (((gain_below hr i).mul hpan).mul (saw_below hr hp i)).mono (by decide)

theorem SupersawBank.raw_below : ((e.sums Config.reference).l.div Config.reference.ssNorm).Below 71 ∧
    ((e.sums Config.reference).r.div Config.reference.ssNorm).Below 71 := by
  have hnorm : Config.reference.ssNorm.OneLe := oneLe_const (by decide +kernel)
  have bnorm : Config.reference.ssNorm.Below 3 := below_const (by decide +kernel)
  have bstart : zero.Below 62 := below_zero.mono (by decide)
  rw [sums_l, sums_r]
  exact ⟨(below_foldl _ 62 _ bstart (fun i _ => term_below hr hp i ((below_one.sub (ssPan_below i)).mono (by decide)))
      (by decide)).div hnorm bnorm,
    (below_foldl _ 62 _ bstart (fun i _ => term_below hr hp i ((ssPan_below i).mono (by decide))) (by decide)).div
      hnorm bnorm⟩

end

/-! ## E6 (R284) -/

section
variable {e : FmPair NUM} (hr : e.regs.InRange)
include hr

theorem FmPair.modulator_below (hm : e.phM.inPhase = true) (hf : e.fbz.tame = true) :
    (e.modulator Config.reference).Below 1 := by
  have bpi : Config.reference.twoPi.Below 3 := below_const (by decide +kernel)
  have bmax : Config.reference.fmFbMax.Below 0 := below_const (by decide +kernel)
  exact ((bpi.mul (below_of_inPhase hm)).add (((below_of_inUnit hr.timb).mul bmax).mul (below_of_tame hf))).sin

theorem FmPair.carrier_below (hc : e.phC.inPhase = true) (hm : e.phM.inPhase = true) (hf : e.fbz.tame = true)
    (he : e.env.inUnit = true) : (e.carrier Config.reference).Below 1 := by
  have bpi : Config.reference.twoPi.Below 3 := below_const (by decide +kernel)
  have bmax : Config.reference.fmIndexMax.Below 2 := below_const (by decide +kernel)
  have bindex := ((below_of_inUnit hr.morph).mul bmax).mul (below_of_inUnit (envNext_inUnit he))
  exact ((bpi.mul (below_of_inPhase hc)).add (bindex.mul (modulator_below hr hm hf))).sin

end

/-! ## E9 (R265) -/

theorem ChordStack.voice_below {e : ChordStack NUM} (hr : e.regs.InRange) (hp : e.ph.inPhase = true) (v : Nat) :
    (e.voice Config.reference v).Below 62 := by
  have hphase := bankGet_inPhase hp v
  exact ((saw_lerp_square_below hphase hr.sr hr.timb _).lerp (below_sinTurn_phase hphase)
    (below_of_inUnit hr.morph)).mono (by decide)

theorem ChordStack.raw_below {e : ChordStack NUM} (hr : e.regs.InRange) (hp : e.ph.inPhase = true) :
    ((e.sum Config.reference).div (ofNat 4)).Below 66 := by
  have hfour : (ofNat 4).OneLe := oneLe_const (by decide +kernel)
  have bsum : (e.sum Config.reference).Below 66 :=
    below_foldl _ 62 _ (below_zero.mono (by decide)) (fun v _ => voice_below hr hp v) (by decide)
  exact bsum.div hfour (n := 2) (below_const (by decide +kernel))

/-! ## E10 and E11 (R316, R335) -/

theorem PluckedString.outA_below {e : PluckedString NUM} (hA : Memory.tame e.bufA = true) :
    (e.outA Config.reference).Below 33 :=
  ((below_memRead hA _ _).sub (below_memRead hA _ _)).mono (by decide)

theorem PluckedString.allpass_below {e : PluckedString NUM} (hB : Memory.tame e.bufB = true) (hz : e.apz.tame = true) :
    (e.allpass Config.reference).Below 34 := by
  have bgain : Config.reference.strApG.neg.Below 0 := below_const (by decide +kernel)
  have bout : (e.outB Config.reference).Below 33 :=
    ((below_memRead hB _ _).sub (below_memRead hB _ _)).mono (by decide)
  exact ((bgain.mul bout).add (below_of_tame hz)).mono (by decide)

theorem PwmOsc.blocked_below {e : PwmOsc NUM} (hr : e.regs.InRange) (draws : Nat → NUM) (c : Chan)
    (hx : (stereoGet e.ch c).dcx.tame = true) (hy : (stereoGet e.ch c).dcy.tame = true) :
    (e.blocked Config.reference draws c).Below 60 := by
  have bpulse : (e.pulse Config.reference draws c).Below 58 := by
    cases c <;> exact below_blpulse_inc (wrap1_inPhase' _) hr.sr _ _
  have bpole : Config.reference.pwmDcR.Below 0 := below_const (by decide +kernel)
  exact ((bpulse.sub (below_of_tame hx)).add (bpole.mul (below_of_tame hy))).mono (by decide)

end Sys2Proof.Machine

namespace Sys2Proof.NUM

open Config (binary32)

variable {a b t x : NUM} {n : Nat}

/-! ## Positions in a table, powers and smaller numbers -/

theorem value_ofInt {i : Int} (h0 : 0 ≤ i) (h32 : i < 32) : (ofInt i).isFinite = true ∧ (ofInt i).value = i := by
  obtain ⟨n, rfl⟩ := Int.eq_ofNat_of_zero_le h0
  have hn : n < 32 := by omega
  exact ⟨(ofNat_units n hn).1, by rw [← Int.cast_natCast]; exact (value_ofNat hn).trans (by push_cast; rfl)⟩

/-- The place between two neighbours: what is left of a position `x` in a table of `n + 1` steps after its whole part, which
stops at `n`, is in [0, 1]. -/
theorem sub_floor_inUnit (hn : n < 31) (hx : x.UpTo (n + 1)) : (x.sub (ofInt (x.floor ⊓ n))).inUnit = true := by
  obtain ⟨hf, h0, h1⟩ := hx
  rw [floor_value hf]
  have hfloor : 0 ≤ ⌊x.value⌋ := Int.floor_nonneg.2 h0
  obtain ⟨hfi, hvi⟩ := value_ofInt (i := ⌊x.value⌋ ⊓ n) (by omega) (by omega)
  have hle : ((⌊x.value⌋ ⊓ n : Int) : ℚ) ≤ x.value := (Int.cast_le.2 (min_le_left _ _)).trans (Int.floor_le _)
  have hlt : x.value ≤ ((⌊x.value⌋ ⊓ n : Int) : ℚ) + 1 := by
    rcases le_total ⌊x.value⌋ n with h | h
    · rw [min_eq_left h]
      exact (Int.lt_floor_add_one _).le
    · rw [min_eq_right h]
      exact_mod_cast h1
  refine upTo_one_iff.1 (upTo_of_rounds (by decide) (sub_rounds hf hfi) ?_ ?_) <;> rw [hvi]
  · exact sub_nonneg.2 hle
  · rw [Nat.cast_one]
    linarith

/-- The smaller of two numbers that are not below 0. -/
theorem min_within (ha : a.Nonneg) (hb : b.Nonneg) {m : Nat} (ba : a.Below m) :
    (a.min b).Nonneg ∧ (a.min b).le b = true ∧ (a.min b).Below m := by
  rw [min_def]
  split
  next hle => exact ⟨ha, hle, ba⟩
  next hle =>
    have hlt := le_of_lt (lt_of_not_le ha.1 hb.1 (Bool.eq_false_iff.2 hle))
    exact ⟨hb, le_self hb.1, below_of_within (nonneg_iff.1 hb) hlt (below_zero.mono (Nat.zero_le _)) ba⟩

theorem one_sub_inUnit (h : a.inUnit = true) : (one.sub a).inUnit = true := by
  obtain ⟨hf, h0, h1⟩ := upTo_one_iff.2 h
  have hone : one.UpTo 1 := upTo_one_iff.2 (by decide +kernel)
  rw [Nat.cast_one] at h1
  exact upTo_one_iff.1 (hone.sub (by decide) hf (h1.trans value_one.ge) (by push_cast; linarith))

/-- `POW(n, y)` of a small integer with an exponent that is not above 0. -/
theorem pow_neg_within (hn0 : 0 < n) (hn : n < 18) (hy : x.Nonneg) (hf : x.Below 2) :
    ((ofNat n).pow x.neg).Nonneg ∧ ((ofNat n).pow x.neg).Below 3 := by
  have hbase : ∀ n < 18, 0 < n → zero.lt (ofNat n) = true ∧ (ofNat n).mag < infMag ∧ 0 ≤ fixLn (ofNat n) := by
    decide +kernel
  obtain ⟨hpos, hfin, hln⟩ := hbase n hn hn0
  refine pow_within hpos hfin hln ((below_neg.2 hf).finite (by decide)) ?_
  rw [neg_units, hy.units]
  omega

/-- `POW(1, y)` is 1 (R254). -/
theorem one_pow_eq {y : NUM} (hy : y.isFinite = true) : one.pow y = expToNum 0 := by
  rw [pow, if_pos (by rw [hy]; decide +kernel), show fixLn one = 0 by decide +kernel, mul_zero, Int.zero_ediv]

end Sys2Proof.NUM

namespace Sys2Proof.Machine

open NUM

/-! ## E7 (R295, R296) -/

/-- One band of a resonator whose centre frequency is at most `0.45·sr` and whose damping is in [0, 1]. -/
theorem resonator_band_below {f sr k x ic1 ic2 : NUM} (hsr : sr.isRate = true) (hf : f.Nonneg)
    (hle : f.le ((ofRat 45 100).mul sr) = true) (bf : f.Below 32) (hk : k.Nonneg) (bk : k.Below 0) (bx : x.Below 61)
    (b1 : ic1.Below 32) (b2 : ic2.Below 32) : (resonator Config.reference f sr k x ic1 ic2).band.Below 80 := by
  obtain ⟨hangle, hmag⟩ := angle_within hsr hf hle bf
  obtain ⟨hg, bg⟩ := tan_within hangle hmag
  have bgk := bg.add bk
  have bden := bg.mul bgk
  have hden := one_oneLe.add (hg.mul (hg.add hk bg bk) bg bgk) below_one bden
  have ba1 := below_one.div hden (below_one.add bden)
  have ba2 := bg.mul ba1
  exact (bk.mul ((ba1.mul b1).add (ba2.mul (bx.sub b2)))).mono (by decide)

/-- The quality `q` of the three resonators, whose damping is `1/q` (R296). -/
def FormantFilter.quality (e : FormantFilter NUM) : NUM :=
  Config.reference.formantQMin.add (e.regs.harm.mul (Config.reference.formantQMax.sub Config.reference.formantQMin))

section
variable {e : FormantFilter NUM} (hr : e.regs.InRange)
include hr

theorem FormantFilter.source_below (hp : e.ph.inPhase = true) : (e.source Config.reference).Below 61 := by
  have boffset : ((two.mul Config.reference.formantPw).sub one).Below 0 := below_const (by decide +kernel)
  exact (((below_blpulse_inc hp hr.sr e.regs.freq _).sub boffset).lerp (below_blsaw_inc hp hr.sr e.regs.freq)
    (below_of_inUnit hr.morph)).mono (by decide)

/-- The position in a vowel table less its whole part. -/
theorem FormantFilter.fraction_inUnit :
    (((ofNat 4).mul e.regs.timb).sub (ofInt (min ((ofNat 4).mul e.regs.timb).floor 3))).inUnit = true := by
  have hfour : (ofNat 4).UpTo 4 := (upTo_iff (by decide)).2 (by decide +kernel)
  exact sub_floor_inUnit (n := 3) (by decide) (hfour.mul (upTo_one_iff.2 hr.timb) (by decide))

theorem FormantFilter.lookup_within {table : List (List NUM)} {m : Nat}
    (htable : ∀ r ∈ table, ∀ v ∈ r, zero.le v = true ∧ v.mag ≤ (127 + m) * 2 ^ 23) (hm : m < 120) (j : Nat) :
    (e.lookup Config.reference table j).Nonneg ∧ (e.lookup Config.reference table j).Below (m + 2) := by
  have hentry : ∀ i, (tableAt2 table i j).Nonneg ∧ (tableAt2 table i j).Below m := fun i =>
    tableAt2_of_all (P := fun v => v.Nonneg ∧ v.Below m)
      ⟨nonneg_iff.2 (by decide +kernel), below_zero.mono (Nat.zero_le _)⟩
      (fun r hrow v hv => ⟨nonneg_iff.2 (htable r hrow v hv).1, (htable r hrow v hv).2⟩) i j
  have ht := fraction_inUnit hr
  exact ⟨nonneg_lerp (hentry _).1 (hentry _).1 (hentry _).2 (hentry _).2 (nonneg_of_inUnit ht) (below_of_inUnit ht) hm,
    (below_lerp (hentry _).2 (hentry _).2 (below_of_inUnit ht) (by omega)).mono (by omega)⟩

theorem FormantFilter.quality_within : e.quality.OneLe ∧ e.quality.Below 5 := by
  have hmin : Config.reference.formantQMin.OneLe := oneLe_const (by decide +kernel)
  have bmin : Config.reference.formantQMin.Below 3 := below_const (by decide +kernel)
  have hspan : (Config.reference.formantQMax.sub Config.reference.formantQMin).Nonneg := nonneg_iff.2 (by decide +kernel)
  have bspan : (Config.reference.formantQMax.sub Config.reference.formantQMin).Below 4 := below_const (by decide +kernel)
  have bharm := below_of_inUnit hr.harm
  have bpart := bharm.mul bspan
  exact ⟨hmin.add ((nonneg_of_inUnit hr.harm).mul hspan bharm bspan) bmin bpart, (bmin.add bpart).mono (by decide)⟩

theorem FormantFilter.band_below (hp : e.ph.inPhase = true) (h1 : e.ic1.tame = true) (h2 : e.ic2.tame = true) (j : Nat) :
    (e.resonance Config.reference j).band.Below 80 := by
  have hvowel : ∀ r ∈ Config.reference.vowel, ∀ v ∈ r, zero.le v = true ∧ v.mag ≤ (127 + 12) * 2 ^ 23 := by
    decide +kernel
  obtain ⟨hf, bf⟩ := lookup_within hr hvowel (by decide) j
  obtain ⟨hrate, hrate0⟩ := isRate_value hr.sr
  have hsr : e.regs.sr.Nonneg :=
    nonneg_iff.2 ((le_iff_value (by decide +kernel) hrate).2 (value_zero.trans_le hrate0))
  have hceil : ((ofRat 45 100).mul e.regs.sr).Nonneg :=
    nonneg_mul (nonneg_iff.2 (by decide +kernel)) hsr (by decide +kernel) ((isFinite_iff _).1 hrate)
  obtain ⟨hmin, hle, bmin⟩ := min_within hf hceil bf
  obtain ⟨hq, bq⟩ := quality_within hr
  have hk : (one.div e.quality).Nonneg :=
    nonneg_div one_oneLe.nonneg hq (below_one.finite (by decide)) (bq.finite (by decide))
  exact resonator_band_below hr.sr hmin hle (bmin.mono (by decide)) hk (below_one.div hq bq) (source_below hr hp)
    (below_bankGet h1 j) (below_bankGet h2 j)

theorem FormantFilter.sum_below (hp : e.ph.inPhase = true) (h1 : e.ic1.tame = true) (h2 : e.ic2.tame = true) :
    (e.sum Config.reference).Below 85 := by
  have hamp : ∀ r ∈ Config.reference.formantAmp, ∀ v ∈ r, zero.le v = true ∧ v.mag ≤ (127 + 0) * 2 ^ 23 := by
    decide +kernel
  exact below_foldl _ 82 _ (below_zero.mono (by decide))
    (fun j _ => ((lookup_within hr hamp (by decide) j).2.mul (band_below hr hp h1 h2 j)).mono (by decide)) (by decide)

end

/-! ## E8 (R253, R254) -/

section
variable {e : AdditiveBank NUM} (hr : e.regs.InRange)
include hr

/-- At least one partial sounds, and at most 17 (R253). -/
theorem AdditiveBank.count_within : 1 ≤ e.count Config.reference ∧ e.count Config.reference ≤ 17 := by
  have hspan : (ofNat 14).UpTo 14 := (upTo_iff (by decide)).2 (by decide +kernel)
  have hhalf : (ofRat 1 2).UpTo 1 := upTo_one_iff.2 (by decide +kernel)
  obtain ⟨hf, h0, h1⟩ := ((upTo_one_iff.2 hr.harm).mul hspan (by decide)).add hhalf (by decide)
  have hround : (e.regs.harm.mul (ofNat 14)).round = ⌊((e.regs.harm.mul (ofNat 14)).add (ofRat 1 2)).value⌋ :=
    floor_value hf
  have hlow : 0 ≤ (e.regs.harm.mul (ofNat 14)).round := hround ▸ Int.floor_nonneg.2 h0
  have hhigh : (e.regs.harm.mul (ofNat 14)).round ≤ 15 := by
    rw [hround, ← Int.cast_le (R := ℚ)]
    exact (Int.floor_le _).trans (h1.trans (by norm_num))
  have hcount : e.count Config.reference = (2 + (e.regs.harm.mul (ofNat 14)).round).toNat := rfl
  omega

/-- The exponent of the amplitudes is not above -1 (R254). -/
theorem AdditiveBank.slope_within : (one.add (Config.reference.addSlope.mul e.regs.timb)).OneLe ∧
    (one.add (Config.reference.addSlope.mul e.regs.timb)).Below 1 := by
  have bslope : Config.reference.addSlope.Below 0 := below_const (by decide +kernel)
  have btimb := below_of_inUnit hr.timb
  have hslope : Config.reference.addSlope.Nonneg := nonneg_iff.2 (by decide +kernel)
  have hpart := hslope.mul (nonneg_of_inUnit hr.timb) bslope btimb
  exact ⟨one_oneLe.add hpart below_one (bslope.mul btimb), (below_one.add (bslope.mul btimb)).mono (by decide)⟩

theorem AdditiveBank.amp_within {n : Nat} (hn0 : 0 < n) (hn : n < 18) :
    (e.amp Config.reference n).Nonneg ∧ (e.amp Config.reference n).Below 3 := by
  obtain ⟨hslope, bslope⟩ := slope_within hr
  obtain ⟨hpow, bpow⟩ := pow_neg_within hn0 hn hslope.nonneg (bslope.mono (by decide))
  have hmorph := one_sub_inUnit hr.morph
  unfold amp
  dsimp only
  split
  · exact ⟨hpow.mul (nonneg_of_inUnit hmorph) bpow (below_of_inUnit hmorph),
      (bpow.mul (below_of_inUnit hmorph)).mono (by decide)⟩
  · exact ⟨hpow, bpow⟩

/-- The first partial has amplitude 1 (R254). -/
theorem AdditiveBank.amp_one : e.amp Config.reference 1 = expToNum 0 := by
  obtain ⟨-, bslope⟩ := slope_within hr
  exact one_pow_eq ((isFinite_iff _).2 ((below_neg.2 bslope).finite (by decide)))

/-- The normaliser starts with the first amplitude and grows (R254). -/
theorem AdditiveBank.norm_within :
    (e.sums Config.reference).r.OneLe ∧ (e.sums Config.reference).r.Below 20 := by
  obtain ⟨hlow, hhigh⟩ := count_within hr
  have hsum : (e.sums Config.reference).r =
      (List.range (e.count Config.reference)).foldl (fun acc j => acc.add (e.amp Config.reference (j + 1))) zero :=
    (List.foldl_hom Stereo.r fun _ _ => rfl).symm
  have hlen := List.length_range (n := e.count Config.reference)
  have hamp : ∀ j ∈ List.range (e.count Config.reference), (e.amp Config.reference (j + 1)).Nonneg ∧
      (e.amp Config.reference (j + 1)).Below 3 := fun j hj =>
    amp_within hr (Nat.succ_pos j) (by have := List.mem_range.1 hj; omega)
  refine ⟨?_, ?_⟩ <;> rw [hsum]
  · obtain ⟨k, hk⟩ : ∃ k, e.count Config.reference = k + 1 := ⟨e.count Config.reference - 1, by omega⟩
    rw [hk, List.range_succ_eq_map] at hamp hlen ⊢
    have hfirst : (zero.add (e.amp Config.reference 1)).OneLe ∧ (zero.add (e.amp Config.reference 1)).Below 3 := by
      rw [amp_one hr]
      exact ⟨oneLe_const (by decide +kernel), below_const (by decide +kernel)⟩
    rw [List.length_cons] at hlen
    rw [List.foldl_cons]
    exact oneLe_foldl _ 3 hfirst.1 hfirst.2 (fun j hj => (hamp j (List.mem_cons_of_mem _ hj)).1)
      (fun j hj => (hamp j (List.mem_cons_of_mem _ hj)).2) (by omega)
  · exact (below_foldl _ 3 _ (below_zero.mono (by decide)) (fun j hj => (hamp j hj).2) (by omega)).mono (by omega)

theorem AdditiveBank.sum_below (hp : e.ph.inPhase = true) : (e.sums Config.reference).l.Below 21 := by
  obtain ⟨-, hhigh⟩ := count_within hr
  have hsum : (e.sums Config.reference).l = (List.range (e.count Config.reference)).foldl (fun acc j =>
      if (e.freqOf Config.reference (j + 1)).lt (e.regs.sr.div two) then
        acc.add ((e.amp Config.reference (j + 1)).mul (sinTurn Config.reference (bankGet e.ph j)))
      else acc) zero :=
    (List.foldl_hom Stereo.l fun _ _ => rfl).symm
  have hlen := List.length_range (n := e.count Config.reference)
  rw [hsum]
  refine Below.mono (m := 4 + _) (below_foldl_step _ 4 (below_zero.mono (by decide))
    (fun j hj n acc hn hn' hacc => ?_) (by omega)) (by omega)
  split
  · obtain ⟨-, bamp⟩ := amp_within hr (Nat.succ_pos j) (by have := List.mem_range.1 hj; omega)
    exact below_add hacc ((bamp.mul (below_sinTurn_phase (bankGet_inPhase hp j))).mono hn) hn'
  · exact hacc.mono (Nat.le_succ n)

theorem AdditiveBank.raw_below (hp : e.ph.inPhase = true) :
    ((e.sums Config.reference).l.div (e.sums Config.reference).r).Below 21 := by
  obtain ⟨hnorm, bnorm⟩ := norm_within hr
  exact (sum_below hr hp).div hnorm bnorm

end

/-! ## The twelve engines (R168) -/

/-- The two raw samples of a body's answer. -/
def BodyStep.raw {E : Type} (b : BodyStep E NUM) : Stereo NUM := ⟨b.xL, b.xR⟩

/-- The raw pair that the body of engine `k` hands to the output stage. -/
def State.rawPair (s : State) : Engine → Stereo NUM
  | .sine => (SineOsc.body Config.reference s.e0 (s.e0.regs.draws Config.reference)).raw
  | .triangle => (TriangleOsc.body Config.reference s.e1 (s.e1.regs.draws Config.reference)).raw
  | .square => (SquareOsc.body Config.reference s.e2 (s.e2.regs.draws Config.reference)).raw
  | .saw => (SawOsc.body Config.reference s.e3 (s.e3.regs.draws Config.reference)).raw
  | .supersaw => (SupersawBank.body Config.reference s.e4 (s.e4.regs.draws Config.reference)).raw
  | .virtualAnalog => (VirtualAnalog.body Config.reference s.e5 (s.e5.regs.draws Config.reference)).raw
  | .fm => (FmPair.body Config.reference s.e6 (s.e6.regs.draws Config.reference)).raw
  | .formant => (FormantFilter.body Config.reference s.e7 (s.e7.regs.draws Config.reference)).raw
  | .additive => (AdditiveBank.body Config.reference s.e8 (s.e8.regs.draws Config.reference)).raw
  | .chord => (ChordStack.body Config.reference s.e9 (s.e9.regs.draws Config.reference)).raw
  | .pluckedString => (PluckedString.body Config.reference s.e10 (s.e10.regs.draws Config.reference)).raw
  | .pwm => (PwmOsc.body Config.reference s.e11 (s.e11.regs.draws Config.reference)).raw

/-- `PRODUCE` answers with the raw pair through the output stage, whose noise is that of some later seed. -/
theorem exec_opProduce (k : Engine) (s : State) : ∃ (t : State) (seed : BitVec 32), exec k.opProduce s = .next t ∧
    t.responses = s.responses ++ [wordPair
      (outLevel Config.reference k.index { s.regs k with seed := seed } (s.rawPair k).r).bits
      (outLevel Config.reference k.index { s.regs k with seed := seed } (s.rawPair k).l).bits] := by
  cases k <;> exact ⟨_, _, rfl, rfl⟩

theorem BodyStep.raw_below {E : Type} {b : BodyStep E NUM} {m : Nat} (hl : b.xL.Below m) (hr : b.xR.Below m)
    (h : m ≤ 100 := by decide) : b.raw.l.Below 100 ∧ b.raw.r.Below 100 :=
  ⟨hl.mono h, hr.mono h⟩

theorem PwmChannel.tame_iff {u : PwmChannel NUM} : u.tame = true ↔ u.ph.inPhase = true ∧ u.drift.tame = true ∧
    u.target.tame = true ∧ u.dcx.tame = true ∧ u.dcy.tame = true := by
  simp only [PwmChannel.tame, Bool.and_eq_true, and_assoc]

/-- The raw pair of a tame engine is a pair of numbers of bounded size. -/
theorem State.rawPair_below {s : State} {k : Engine} (h : s.engineTame k = true) :
    (s.rawPair k).l.Below 100 ∧ (s.rawPair k).r.Below 100 := by
  cases k <;>
    simp only [State.Of.engineTame, Bool.and_eq_true, and_assoc, EngineRegs.legal_iff, PwmChannel.tame_iff] at h
  case sine =>
    obtain ⟨hr, hp⟩ := h
    have hx := SineOsc.raw_below hr hp
    exact BodyStep.raw_below hx hx
  case triangle =>
    obtain ⟨hr, hp, hi, hl⟩ := h
    have hx := TriangleOsc.raw_below hr hp hi hl
    exact BodyStep.raw_below hx hx
  case square =>
    obtain ⟨hr, hp, hl⟩ := h
    have hx := SquareOsc.brightened_below hr hp hl
    exact BodyStep.raw_below hx hx
  case saw =>
    obtain ⟨hr, hp, hl⟩ := h
    have hx := SawOsc.brightened_below hr hp hl
    exact BodyStep.raw_below hx hx
  case supersaw =>
    obtain ⟨hr, hp⟩ := h
    obtain ⟨hxl, hxr⟩ := SupersawBank.raw_below hr hp
    exact BodyStep.raw_below hxl hxr
  case virtualAnalog =>
    obtain ⟨hr, hA, hB⟩ := h
    exact BodyStep.raw_below (saw_lerp_square_below hA hr.sr hr.timb _) (saw_lerp_square_below hB hr.sr hr.morph _)
  case fm =>
    obtain ⟨hr, hc, hm, hf, he⟩ := h
    have hx := FmPair.carrier_below hr hc hm hf he
    exact BodyStep.raw_below hx hx
  case formant =>
    obtain ⟨hr, hp, h1, h2⟩ := h
    have hx := FormantFilter.sum_below hr hp h1 h2
    exact BodyStep.raw_below hx hx
  case additive =>
    obtain ⟨hr, hp, -⟩ := h
    have hx := AdditiveBank.raw_below hr hp
    exact BodyStep.raw_below hx hx
  case chord =>
    obtain ⟨hr, hp⟩ := h
    have hx := ChordStack.raw_below hr hp
    exact BodyStep.raw_below hx hx
  case pluckedString =>
    obtain ⟨-, hA, hB, -, -, hz, -⟩ := h
    exact BodyStep.raw_below ((PluckedString.outA_below hA).mono (by decide)) (PluckedString.allpass_below hB hz)
  case pwm =>
    obtain ⟨hr, -, -, -, hxl, hyl, -, -, -, hxr, hyr⟩ := h
    exact BodyStep.raw_below (PwmOsc.blocked_below hr _ .left hxl hyl) (PwmOsc.blocked_below hr _ .right hxr hyr)

/-- Settles O26: the gain of the output stage is the level times `ENGINE_GAIN[k]`, and `TANH` of anything but a NaN is at
most 1 in magnitude; the raw sample of a tame engine is a number of bounded size, so that the noise added to it gives no
NaN. -/
theorem engineOutputNeverExceedsItsLevel : Obligations.EngineOutputNeverExceedsItsLevel := by
  refine ⟨fun k s hlevel => ?_, fun N _ cfg k r x hcfg hk hl hh hx => outLevel_bounded hcfg hk hl hh hx⟩
  obtain ⟨t, seed, hexec, hresponses⟩ := exec_opProduce k s
  have hk : k.index < 12 := Nat.lt_succ_of_le (engine_index_le k)
  have hout := fun x => outLevel_reference (r := { s.regs k with seed := seed }) hk hlevel x
  refine ⟨t, _, _, hexec, hresponses, hout _, hout _, fun htame => ?_⟩
  have hnum := fun x (hx : NUM.Below 100 x) =>
    outLevel_notNaN (k := k.index) (r := { s.regs k with seed := seed }) hlevel hx (by decide)
  obtain ⟨hxl, hxr⟩ := State.rawPair_below htame
  exact ⟨hnum _ hxl, hnum _ hxr⟩

end Sys2Proof.Machine

/-! The basic oscillators (41_basic_oscillators.md): the resets that draw nothing, and what `PRODUCE` of E0 to E3 answers and
leaves, in the reference configuration. The body of each of the four draws nothing and hands one raw sample to both channels,
so that the output stage makes the one draw (R168). -/

namespace Sys2Proof.Machine

/-! ## The resets that draw nothing (R191, R201, R211, R221, R241, R261, R281, R291, R311, R331) -/

/-- Settles O12: each reset is one update of its engine's private fields, with which `done` answers. -/
theorem engineResetZeroesPrivateState : Obligations.EngineResetZeroesPrivateState := by
  intro s z
  and_intros <;> exact done_eq_next.2 rfl

/-! ## E0 (R194) -/

theorem SineOsc.produce_eq (e : SineOsc NUM) :
    e.produce Config.reference =
      let dt := inc Config.reference e.regs.freq e.regs.sr
      let out := outstage Config.reference 0 e.regs (e.raw Config.reference) (e.raw Config.reference)
      (out.1, { regs := out.2, ph := phaseNext Config.reference e.ph dt }) := by
  rw [produce_reference]
  rfl

/-- Settles O14: the raw sample is the rule's formula, and both channels are the output stage's word for it. -/
theorem sineEngineProduces : Obligations.SineEngineProduces := by
  refine fun s => doneWithPair_eq_next.2 ?_
  rw [SineOsc.produce_eq]
  rfl

/-! ## E1 (R204) -/

/-- The quarter turn between the square that E1 sums and its phase, however the fraction is written. -/
theorem quarter_eq : NUM.ofRat 1 4 = NUM.ofRat 25 100 := by decide +kernel

theorem TriangleOsc.produce_eq (e : TriangleOsc NUM) :
    e.produce Config.reference =
      let dt := inc Config.reference e.regs.freq e.regs.sr
      let b := e.brightened Config.reference
      let x := (NUM.one.add e.regs.timb).mul b
      let integ := ((NUM.one.sub Config.reference.triLeak).mul e.integ).add
        (((NUM.ofNat 4).mul dt).mul (blsquare Config.reference (e.ph.add (NUM.ofRat 25 100)).wrap1 dt))
      let out := outstage Config.reference 1 e.regs x x
      (out.1, { regs := out.2, ph := phaseNext Config.reference e.ph dt, integ := integ.ftz, lp := b }) := by
  rw [produce_reference, ← quarter_eq]
  rfl

/-- Settles O15: the brightened value is the rule's cross-fade, and the sum takes the square a quarter turn on. -/
theorem triangleEngineProduces : Obligations.TriangleEngineProduces := by
  refine fun s => doneWithPair_eq_next.2 ?_
  rw [TriangleOsc.produce_eq]
  rfl

/-! ## E2 (R214) -/

theorem SquareOsc.brightened_eq (e : SquareOsc NUM) :
    e.brightened Config.reference =
      let pw := (NUM.ofRat 5 10).add (Config.reference.sqPwSpan.mul e.regs.timb)
      let pulse := blpulse Config.reference e.ph (inc Config.reference e.regs.freq e.regs.sr) pw
      let v := pulse.sub ((NUM.two.mul pw).sub NUM.one)
      bright Config.reference e.regs e.lp (v.lerp (sinTurn Config.reference e.ph) e.regs.morph) := by
  rw [← half_eq]
  rfl

theorem SquareOsc.produce_eq (e : SquareOsc NUM) :
    e.produce Config.reference =
      let dt := inc Config.reference e.regs.freq e.regs.sr
      let x := e.brightened Config.reference
      let out := outstage Config.reference 2 e.regs x x
      (out.1, { regs := out.2, ph := phaseNext Config.reference e.ph dt, lp := x }) := by
  rw [produce_reference]
  rfl

/-- Settles O16: the brightened value is at once the raw sample of both channels and the new `lp`. -/
theorem squareEngineProduces : Obligations.SquareEngineProduces := by
  refine fun s => doneWithPair_eq_next.2 ?_
  rw [SquareOsc.produce_eq, SquareOsc.brightened_eq]
  rfl

/-! ## E3 (R224) -/

theorem SawOsc.produce_eq (e : SawOsc NUM) :
    e.produce Config.reference =
      let dt := inc Config.reference e.regs.freq e.regs.sr
      let x := e.brightened Config.reference
      let out := outstage Config.reference 3 e.regs x x
      (out.1, { regs := out.2, ph := phaseNext Config.reference e.ph dt, lp := x }) := by
  rw [produce_reference]
  rfl

/-- Settles O17: as E2, with the rule's cross-fade of saw, square and sine brightened. -/
theorem sawEngineProduces : Obligations.SawEngineProduces := by
  refine fun s => doneWithPair_eq_next.2 ?_
  rw [SawOsc.produce_eq]
  rfl

end Sys2Proof.Machine

/-! The engines of many oscillators (42_multi_oscillators.md): the resets of E4 and E8, which draw every word of their banks,
and what `PRODUCE` of E4, E5, E8 and E9 answers and leaves, in the reference configuration. Like those of the basic oscillators,
the four bodies draw nothing; those of E4, E8 and E9 advance a bank of phases word by word and sum their oscillators in
order. -/

namespace Sys2Proof.Machine

/-! ## The resets that draw (R231, R251) -/

section
variable (e : SupersawBank NUM)

theorem SupersawBank.reset_eq :
    e.reset Config.reference =
      { regs := { e.regs with seed := Nat.iterate Config.reference.rngStep 9 e.regs.seed }
        ph := (e.reset Config.reference).ph } := by
  rw [← rngSkip_eq_iterate]
  rfl

theorem SupersawBank.bankGet_reset_ph {i : Nat} (hi : i < 9) :
    bankGet (e.reset Config.reference).ph i =
      (Config.reference.rngOut (Nat.iterate Config.reference.rngStep (i + 1) e.regs.seed)).ftz := by
  rw [← rngSkip_eq_iterate]
  exact drawPhases_getD Config.reference 9 i e.regs.seed hi

end

section
variable (e : AdditiveBank NUM)

theorem AdditiveBank.reset_eq :
    e.reset Config.reference =
      { regs := { e.regs with seed := Nat.iterate Config.reference.rngStep 32 e.regs.seed }
        ph := (e.reset Config.reference).ph, det := (e.reset Config.reference).det } := by
  rw [← rngSkip_eq_iterate]
  rfl

/-- The detune of partial `j + 1` is the odd draw of its two. -/
theorem AdditiveBank.bankGet_reset_det {j : Nat} (hj : j < 16) :
    bankGet (e.reset Config.reference).det j =
      (NUM.one.add (Config.reference.addDetune.mul ((NUM.two.mul (Config.reference.rngOut
        (Nat.iterate Config.reference.rngStep (2 * j + 1) e.regs.seed))).sub NUM.one))).ftz := by
  rw [← rngSkip_eq_iterate]
  exact drawDetunes_getD Config.reference 16 j e.regs.seed hj

/-- The phase of partial `j + 1` is the even draw of its two. -/
theorem AdditiveBank.bankGet_reset_ph {j : Nat} (hj : j < 16) :
    bankGet (e.reset Config.reference).ph j =
      (Config.reference.rngOut (Nat.iterate Config.reference.rngStep (2 * j + 2) e.regs.seed)).ftz := by
  rw [← rngSkip_eq_iterate]
  exact drawPartialPhases_getD Config.reference 16 j e.regs.seed hj

end

/-- Settles O13: the drawn banks are those of the reset engine, whose words are the draws one by one. -/
theorem drawingResetsDrawInOrder : Obligations.DrawingResetsDrawInOrder := by
  refine fun s => ⟨⟨(s.e4.reset Config.reference).ph, done_eq_next.2 ?_, fun i hi => s.e4.bankGet_reset_ph hi⟩,
    (s.e8.reset Config.reference).ph, (s.e8.reset Config.reference).det, done_eq_next.2 ?_,
    fun j hj => ⟨s.e8.bankGet_reset_det hj, s.e8.bankGet_reset_ph hj⟩⟩
  · rw [← s.e4.reset_eq]
  · rw [← s.e8.reset_eq]

/-! ## A bank of phases after one sample (R160) -/

theorem bankGet_phaseNext {n i : Nat} (hi : i < n) (dt : Nat → NUM) (b : Bank n NUM) :
    bankGet (bankMap (fun i p => phaseNext Config.reference p (dt i)) b) i =
      ((bankGet b i).add (dt i)).wrap1.ftz :=
  bankGet_bankMap Config.reference _ b i hi

/-! ## E4 (R234) -/

theorem SupersawBank.produce_eq (e : SupersawBank NUM) :
    e.produce Config.reference =
      let out := outstage Config.reference 4 e.regs ((e.sums Config.reference).l.div Config.reference.ssNorm)
        ((e.sums Config.reference).r.div Config.reference.ssNorm)
      (out.1, { regs := out.2
                ph := bankMap (fun i p => phaseNext Config.reference p (e.dt Config.reference i)) e.ph }) := by
  rw [produce_reference]
  rfl

/-- Settles O18: the pair of sums is the sum of each channel, saw by saw, and each saw's phase moves by its own
increment. -/
theorem supersawEngineProduces : Obligations.SupersawEngineProduces := by
  refine fun s => ⟨_, doneWithPair_eq_next.2 ?_, fun i hi => bankGet_phaseNext hi (s.e4.dt Config.reference) s.e4.ph⟩
  rw [SupersawBank.produce_eq, SupersawBank.sums_l, SupersawBank.sums_r]
  rfl

/-! ## E5 (R245) -/

theorem VirtualAnalog.produce_eq (e : VirtualAnalog NUM) :
    e.produce Config.reference =
      let fB := e.regs.freq.mul (Config.reference.pow NUM.two ((e.semi Config.reference).div (NUM.ofNat 12)))
      let dtA := inc Config.reference e.regs.freq e.regs.sr
      let dtB := inc Config.reference fB e.regs.sr
      let a := (blsaw Config.reference e.phA dtA).lerp (blsquare Config.reference e.phA dtA) e.regs.timb
      let b := (blsaw Config.reference e.phB dtB).lerp (blsquare Config.reference e.phB dtB) e.regs.morph
      let out := outstage Config.reference 5 e.regs a b
      (out.1, { regs := out.2, phA := phaseNext Config.reference e.phA dtA
                phB := phaseNext Config.reference e.phB dtB }) := by
  rw [produce_reference]
  rfl

/-- Settles O19: the left channel is oscillator A and the right one oscillator B, the interval of R245 above it. -/
theorem virtualAnalogEngineProduces : Obligations.VirtualAnalogEngineProduces := by
  refine fun s => doneWithPair_eq_next.2 ?_
  rw [VirtualAnalog.produce_eq]
  rfl

/-! ## E8 (R254) -/

/-- Only a partial below half the sample rate sounds. -/
theorem AdditiveBank.sums_l (e : AdditiveBank NUM) : (e.sums Config.reference).l =
    (List.range (e.count Config.reference)).foldl (fun acc j =>
      if (e.freqOf Config.reference (j + 1)).lt (e.regs.sr.div NUM.two)
      then acc.add ((e.amp Config.reference (j + 1)).mul (sinTurn Config.reference (bankGet e.ph j)))
      else acc) NUM.zero :=
  (List.foldl_hom Stereo.l fun _ _ => rfl).symm

/-- Every partial adds to the normaliser, the muted ones too. -/
theorem AdditiveBank.sums_r (e : AdditiveBank NUM) : (e.sums Config.reference).r =
    (List.range (e.count Config.reference)).foldl (fun acc j => acc.add (e.amp Config.reference (j + 1))) NUM.zero :=
  (List.foldl_hom Stereo.r fun _ _ => rfl).symm

theorem AdditiveBank.produce_eq (e : AdditiveBank NUM) :
    e.produce Config.reference =
      let x := (e.sums Config.reference).l.div (e.sums Config.reference).r
      let dt := fun j => inc Config.reference (e.freqOf Config.reference (j + 1)) e.regs.sr
      let out := outstage Config.reference 8 e.regs x x
      (out.1, { regs := out.2, ph := bankMap (fun j p => phaseNext Config.reference p (dt j)) e.ph
                det := e.det }) := by
  rw [produce_reference]
  rfl

/-- Settles O22: the sample is the quotient of the two sums, and all sixteen phases move, whatever the partial count. -/
theorem additiveEngineProduces : Obligations.AdditiveEngineProduces := by
  refine fun s => ⟨_, doneWithPair_eq_next.2 ?_, fun j hj => bankGet_phaseNext hj
    (fun j => inc Config.reference (s.e8.freqOf Config.reference (j + 1)) s.e8.regs.sr) s.e8.ph⟩
  rw [AdditiveBank.produce_eq, AdditiveBank.sums_l, AdditiveBank.sums_r]
  rfl

/-! ## E9 (R265) -/

theorem ChordStack.sum_eq (e : ChordStack NUM) :
    e.sum Config.reference =
      (((NUM.zero.add (e.voice Config.reference 0)).add (e.voice Config.reference 1)).add
        (e.voice Config.reference 2)).add (e.voice Config.reference 3) := rfl

theorem ChordStack.produce_eq (e : ChordStack NUM) :
    e.produce Config.reference =
      let x := (e.sum Config.reference).div (NUM.ofNat 4)
      let out := outstage Config.reference 9 e.regs x x
      (out.1, { regs := out.2
                ph := bankMap (fun v p => phaseNext Config.reference p (e.dt Config.reference v)) e.ph }) := by
  rw [produce_reference]
  rfl

/-- Settles O23: both channels are a quarter of the sum of the four voices, and each voice's phase moves by its own
increment. -/
theorem chordEngineProduces : Obligations.ChordEngineProduces := by
  refine fun s => ⟨_, doneWithPair_eq_next.2 ?_, fun v hv => bankGet_phaseNext hv (s.e9.dt Config.reference) s.e9.ph⟩
  rw [ChordStack.produce_eq, ChordStack.sum_eq]
  rfl

end Sys2Proof.Machine

/-! FM and formant (43_fm_formant.md): what `PRODUCE` of E6 and E7 answers and leaves, in the reference configuration. Both
bodies draw nothing and hand one raw sample to both channels. -/

namespace Sys2Proof.Machine

/-! ## E6 (R284) -/

theorem one_ftz : NUM.one.ftz = NUM.one := by decide +kernel

/-- The envelope restarts at exactly 1, which the flush keeps. -/
theorem FmPair.envNext_eq (e : FmPair NUM) :
    e.envNext Config.reference = if e.cnt = 0 then NUM.one else (e.env.mul Config.reference.fmDecay).ftz :=
  congrArg (if e.cnt = 0 then · else (e.env.mul Config.reference.fmDecay).ftz) one_ftz

theorem FmPair.carrier_eq (e : FmPair NUM) :
    e.carrier Config.reference = Config.reference.sin
      (((NUM.two.mul Config.reference.pi).mul e.phC).add
        (((e.regs.morph.mul Config.reference.fmIndexMax).mul (e.envNext Config.reference)).mul
          (e.modulator Config.reference))) := rfl

theorem FmPair.produce_eq (e : FmPair NUM) :
    e.produce Config.reference =
      let dtC := inc Config.reference e.regs.freq e.regs.sr
      let dtM := inc Config.reference (e.regs.freq.mul (e.ratio Config.reference)) e.regs.sr
      let c := e.carrier Config.reference
      let out := outstage Config.reference 6 e.regs c c
      (out.1, { regs := out.2, phC := phaseNext Config.reference e.phC dtC, phM := phaseNext Config.reference e.phM dtM
                fbz := (e.modulator Config.reference).ftz, env := e.envNext Config.reference
                cnt := (e.cnt + 1) % Config.fmPeriod }) := by
  rw [produce_reference]
  rfl

/-- Settles O20: the envelope of this sample is at once the index of its carrier and the word kept for the next. -/
theorem fmEngineProduces : Obligations.FmEngineProduces := by
  refine fun s => doneWithPair_eq_next.2 ?_
  rw [FmPair.produce_eq, FmPair.carrier_eq, FmPair.envNext_eq]
  rfl

/-! ## E7 (R295, R296) -/

/-- Word `i` of a bank whose every word was written anew. -/
theorem bankGet_rewritten {n i : Nat} (hi : i < n) (f : Nat → NUM) (b : Bank n NUM) :
    bankGet (bankMap (fun i _ => f i) b) i = f i :=
  bankGet_bankMap Config.reference (fun i _ => f i) b i hi

theorem FormantFilter.sum_eq (e : FormantFilter NUM) :
    e.sum Config.reference = (List.range 3).foldl (fun acc j =>
      acc.add ((e.lookup Config.reference Config.reference.formantAmp j).mul (e.resonance Config.reference j).band))
      NUM.zero := rfl

theorem FormantFilter.produce_eq (e : FormantFilter NUM) :
    e.produce Config.reference =
      let dt := inc Config.reference e.regs.freq e.regs.sr
      let y := e.sum Config.reference
      let out := outstage Config.reference 7 e.regs y y
      (out.1, { regs := out.2, ph := phaseNext Config.reference e.ph dt
                ic1 := bankMap (fun j _ => (e.resonance Config.reference j).ic1) e.ic1
                ic2 := bankMap (fun j _ => (e.resonance Config.reference j).ic2) e.ic2 }) := by
  rw [produce_reference]
  rfl

/-- Settles O21: the sample is the weighted sum of the three bands, and each resonator leaves its own two states. -/
theorem formantEngineProduces : Obligations.FormantEngineProduces := by
  refine fun s => ⟨_, _, doneWithPair_eq_next.2 ?_, fun j hj =>
    ⟨bankGet_rewritten hj (fun j => (s.e7.resonance Config.reference j).ic1) s.e7.ic1,
      bankGet_rewritten hj (fun j => (s.e7.resonance Config.reference j).ic2) s.e7.ic2⟩⟩
  rw [FormantFilter.produce_eq, FormantFilter.sum_eq]
  rfl

end Sys2Proof.Machine

/-! The plucked string and the pulse-width oscillator (44_string_pwm.md): what `PRODUCE` of E10 and E11 answers and leaves,
in the reference configuration. These are the two bodies that draw: E10 one value for every sample, E11 the two drift
targets when its counter is 0. -/

namespace Sys2Proof.Machine

/-! ## E10 (R313, R315, R316) -/

/-- The bounds of the length are 8 and 2048 words (R313). -/
theorem strlen_reference (f sr : NUM) :
    strlen Config.reference f sr =
      if (f.mul (NUM.ofNat 2048)).le sr then 2048 else (min (max (sr.div f).round 8) 2048).toNat := rfl

section
variable (e : PluckedString NUM)

theorem PluckedString.excitation_reference (draws : Nat → NUM) :
    e.excitation Config.reference draws =
      let strike := if e.excnt = 0 then NUM.one else NUM.zero
      let pluck := Config.reference.strExc.mul (bipolar Config.reference (draws 0))
      let bowx := (Config.reference.strExc.mul Config.reference.strBowGain).mul (e.bowNext Config.reference draws)
      if e.regs.morph.le (NUM.ofRat 5 10) then pluck.lerp bowx (NUM.two.mul e.regs.morph)
      else bowx.lerp strike ((NUM.two.mul e.regs.morph).sub NUM.one) := by
  rw [← half_eq]
  rfl

theorem PluckedString.position_reference (len : Nat) :
    e.position Config.reference len =
      let pos := Config.reference.strPosMin.add
        (((NUM.ofRat 5 10).sub Config.reference.strPosMin).mul e.regs.timb)
      max 1 (pos.mul (NUM.ofNat len)).round := by
  rw [← half_eq]
  rfl

/-- Both new words and both raw samples come from the buffers as they were, and the body's one draw is the noise of the
excitation. -/
theorem PluckedString.produce_eq :
    e.produce Config.reference =
      let cfg := Config.reference
      let draws := e.regs.draws cfg
      let lpA := e.damp cfg e.lpA (e.tap cfg e.bufA (e.lenA cfg))
      let lpB := e.damp cfg e.lpB (e.tap cfg e.bufB (e.lenB cfg))
      let exc := e.excitation cfg draws
      let out := outstage cfg 10 { e.regs with seed := cfg.rngStep e.regs.seed } (e.outA cfg) (e.allpass cfg)
      (out.1, { regs := out.2
                bufA := memWrite cfg.strCap e.bufA e.w (exc.add (cfg.strFb.mul lpA))
                bufB := memWrite cfg.strCap e.bufB e.w (exc.add (cfg.strFb.mul lpB))
                w := cursorNext cfg.strCap e.w
                lpA := lpA
                lpB := lpB
                apz := ((e.outB cfg).add (cfg.strApG.mul (e.allpass cfg))).ftz
                bow := e.bowNext cfg draws
                excnt := (e.excnt + 1) % cfg.strStrikePeriod }) := by
  rw [produce_reference]
  rfl

end

/-- Settles O24: the comb of each line takes its two taps at the rule's length and position, and the excitation is added to
what each line feeds back. -/
theorem stringEngineProduces : Obligations.StringEngineProduces := by
  refine fun s => doneWithPair_eq_next.2 ?_
  rw [PluckedString.produce_eq]
  simp only [PluckedString.excitation_reference, PluckedString.outA, PluckedString.outB, PluckedString.allpass,
    PluckedString.position_reference, PluckedString.lenA, PluckedString.lenB, strlen_reference]
  rfl

/-! ## E11 (R334, R335) -/

section
variable (e : PwmOsc NUM)

/-- The left channel takes the first of the two draws (R334). -/
theorem PwmOsc.targetNext_left :
    e.targetNext Config.reference (e.regs.draws Config.reference) .left =
      if e.dcnt = 0 then
        ((NUM.two.mul (Config.reference.rngOut (Config.reference.rngStep e.regs.seed))).sub NUM.one).ftz
      else e.ch.l.target := rfl

/-- The right channel takes the second (R334). -/
theorem PwmOsc.targetNext_right :
    e.targetNext Config.reference (e.regs.draws Config.reference) .right =
      if e.dcnt = 0 then
        ((NUM.two.mul (Config.reference.rngOut (Config.reference.rngStep
          (Config.reference.rngStep e.regs.seed)))).sub NUM.one).ftz
      else e.ch.r.target := rfl

theorem PwmOsc.pulse_reference (draws : Nat → NUM) (c : Chan) :
    e.pulse Config.reference draws c =
      let cfg := Config.reference
      let depth := cfg.pwmDriftPw.mul (cfg.pwmDepthMin.add ((NUM.one.sub cfg.pwmDepthMin).mul e.regs.morph))
      let d := e.driftNext cfg draws c
      blpulse cfg ((stereoGet e.ch c).ph.add (cfg.pwmDriftPh.mul d)).wrap1 (e.dt cfg c)
        ((((NUM.ofRat 5 10).add (cfg.pwmPwSpan.mul e.regs.timb)).add (depth.mul d)).clamp (NUM.ofRat 5 100)
          (NUM.ofRat 95 100)) := by
  rw [← half_eq]
  rfl

/-- The seed after the body's draws: two where the drift targets are drawn anew, else none. -/
theorem PwmOsc.rngSkip_draws :
    rngSkip Config.reference (if e.dcnt = 0 then 2 else 0) e.regs.seed =
      if e.dcnt = 0 then Config.reference.rngStep (Config.reference.rngStep e.regs.seed) else e.regs.seed :=
  apply_ite (rngSkip Config.reference · e.regs.seed) ..

theorem PwmOsc.produce_eq :
    e.produce Config.reference =
      let draws := e.regs.draws Config.reference
      let seed :=
        if e.dcnt = 0 then Config.reference.rngStep (Config.reference.rngStep e.regs.seed) else e.regs.seed
      let out := outstage Config.reference 11 { e.regs with seed := seed } (e.blocked Config.reference draws .left)
        (e.blocked Config.reference draws .right)
      (out.1, { regs := out.2
                ch := ⟨e.channelNext Config.reference draws .left, e.channelNext Config.reference draws .right⟩
                dcnt := (e.dcnt + 1) % Config.reference.pwmDriftPeriod }) := by
  rw [produce_reference, ← rngSkip_draws]
  rfl

end

/-- Settles O25: the two channels run the same rule, each with its own drift target and increment. -/
theorem pulseWidthEngineProduces : Obligations.PulseWidthEngineProduces := by
  refine fun s => doneWithPair_eq_next.2 ?_
  rw [PwmOsc.produce_eq]
  simp only [PwmOsc.channelNext, PwmOsc.blocked, PwmOsc.pulse_reference, PwmOsc.driftNext, PwmOsc.targetNext_left,
    PwmOsc.targetNext_right]
  rfl

end Sys2Proof.Machine

/-! The envelopes and the LFO (45_envelopes_lfo.md): what each operation of ADSR, AD and LFO answers and leaves, in the
reference configuration, and what runs of `ADSR.PROCESS` and `LFO.PROCESS` keep. -/

namespace Sys2Proof.Machine

/-! ## Runs, one command at a time (R110) -/

theorem steps_succ_of_step {n : Nat} {s t : State} (hstep : step s = .next t) : steps (n + 1) s = steps n t := by
  simp only [steps, hstep]

/-! ## Setters, gates and resets of the envelopes (R352 to R357, R359, R367 to R370, R372) -/

/-- Settles O27: each operation is one update of its envelope, with which `done` answers. -/
theorem envelopeControlsAndGates : Obligations.EnvelopeControlsAndGates := by
  intro v s
  and_intros <;> exact done_eq_next.2 rfl

/-! ## One sample period of an envelope (R358, R371) -/

/-- The unit with the stage and the level that a sample period computes. -/
def Adsr.withStage (u : Adsr NUM) (p : AdsrStage × NUM) : Adsr NUM := { u with st := p.1, level := p.2 }

/-- The same for AD. -/
def Ad.withStage (u : Ad NUM) (p : AdStage × NUM) : Ad NUM := { u with st := p.1, level := p.2 }

/-- `ADSR.PROCESS` clamps the level of the stage's arithmetic, stores it and answers it. -/
theorem exec_adsrProcess {s : State} {p : AdsrStage × NUM}
    (hadvance : s.adsr.advance Config.reference = s.adsr.withStage p) :
    exec .adsrProcess s =
      let l := (p.2.clamp NUM.zero NUM.one).ftz
      .next (({ s with adsr := { s.adsr with st := p.1, level := l } } : State).respond 0#32 l.bits) := by
  refine doneWith_eq_next.2 ?_
  rw [Adsr.process, hadvance]
  rfl

/-- The same for `AD.PROCESS`. -/
theorem exec_adProcess {s : State} {p : AdStage × NUM}
    (hadvance : s.ad.advance Config.reference = s.ad.withStage p) :
    exec .adProcess s =
      let l := (p.2.clamp NUM.zero NUM.one).ftz
      .next (({ s with ad := { s.ad with st := p.1, level := l } } : State).respond 0#32 l.bits) := by
  refine doneWith_eq_next.2 ?_
  rw [Ad.process, hadvance]
  rfl

/-- Settles O28: in each stage the arithmetic writes the pair the rule names, one pair or the other where the stage may
end. -/
theorem envelopeProcessByStage : Obligations.EnvelopeProcessByStage := by
  refine fun s => ⟨exec_adsrProcess ?_, exec_adProcess ?_⟩
  · obtain ⟨st, level, sr, a, d, sustain, r⟩ := s.adsr
    cases st with
    | idle | sustain => rfl
    | attack | decay | release =>
      refine Eq.trans ?_ (apply_ite (Adsr.withStage _) _ _ _).symm
      rfl
  · obtain ⟨st, level, sr, a, d⟩ := s.ad
    cases st with
    | idle => rfl
    | attack | decay =>
      refine Eq.trans ?_ (apply_ite (Ad.withStage _) _ _ _).symm
      rfl

/-! ## Sustain (R360) -/

/-- A legal sustain level is what the final clamp and the flush leave of it. -/
theorem ftz_clamp_of_inUnit {v : NUM} (hunit : v.inUnit = true) (hflushed : v.flushed = true) :
    (v.ftz.clamp NUM.zero NUM.one).ftz = v := by
  obtain ⟨hzero, hone⟩ := Bool.and_eq_true_iff.1 hunit
  have hftz : v.ftz = v := of_decide_eq_true hflushed
  rw [hftz, NUM.clamp_of_within hzero hone, hftz]

/-- The state after one `ADSR.PROCESS` in sustain, with the commands `rest` pending. -/
def State.sustained (s : State) (rest : List CommandWord) : State :=
  { s with
    adsr := { s.adsr with level := s.adsr.s }
    cmds := rest
    responses := s.responses ++ [wordPair 0#32 s.adsr.s.bits] }

theorem step_adsrProcess_of_sustain {s : State} {rest : List CommandWord} (hst : s.adsr.st = .sustain)
    (hunit : s.adsr.s.inUnit = true) (hflushed : s.adsr.s.flushed = true)
    (hcmds : s.cmds = encode .adsrProcess :: rest) : step s = .next (s.sustained rest) := by
  have hadvance : s.adsr.advance Config.reference = s.adsr.withStage (s.adsr.st, s.adsr.s.ftz) := by
    rw [Adsr.advance, hst]
    rfl
  rw [step_of_encode Laws.RowFound.adsrProcess rfl hcmds,
    exec_adsrProcess (s := { s with cmds := rest }) hadvance, ftz_clamp_of_inUnit hunit hflushed]
  rfl

/-- Settles O29, by induction on the number of commands: one of them leaves the stage and the sustain level, so the next
meets the same premises. -/
theorem sustainLevelHolds : Obligations.SustainLevelHolds := by
  intro s n rest
  induction n generalizing s with
  | zero =>
    intro hst hunit hflushed hcmds
    rw [show rest = s.cmds from hcmds.symm]
    simp [steps]
  | succ n ih =>
    intro hst hunit hflushed hcmds
    rw [List.replicate_succ, List.cons_append] at hcmds
    rw [steps_succ_of_step (step_adsrProcess_of_sustain hst hunit hflushed hcmds),
      ih (s.sustained _) hst hunit hflushed rfl]
    simp [State.sustained, List.replicate_succ]

/-! ## The controls of the LFO (R383, R385 to R387) -/

/-- Settles O32: each operation is one update of the LFO, and the waveform stored is that of the clamped code. -/
theorem lfoControls : Obligations.LfoControls := by
  intro v s
  have hcode := clampInt_within (((numOf v).san NUM.zero (NUM.ofNat 4)).round) (lo := 0) (hi := 4) (by decide)
  exact ⟨done_eq_next.2 rfl, done_eq_next.2 rfl, ⟨_, code_waveOfCode _ (by omega), done_eq_next.2 rfl⟩,
    done_eq_next.2 rfl⟩

/-! ## One sample period of the LFO (R384) -/

/-- The second edge of the triangle, however the fraction is written. -/
theorem three_quarters_eq : NUM.ofRat 3 4 = NUM.ofRat 75 100 := by decide +kernel

theorem lfoTriangle_reference (p : NUM) :
    lfoTriangle Config.reference p =
      let p4 := (NUM.ofNat 4).mul p
      if p.lt (NUM.ofRat 25 100) then p4 else if p.lt (NUM.ofRat 75 100) then NUM.two.sub p4
        else p4.sub (NUM.ofNat 4) := by
  rw [← quarter_eq, ← three_quarters_eq]
  rfl

theorem lfoSquare_reference (p : NUM) :
    (if p.lt (NUM.ofRat 1 2) then NUM.one else NUM.one.neg) =
      if p.lt (NUM.ofRat 5 10) then NUM.one else NUM.one.neg := by
  rw [half_eq]

/-- The phase moves at every sample; the seed and the held value move at a wrap, whatever the waveform. -/
theorem Lfo.process_eq (u : Lfo NUM) :
    u.process Config.reference =
      let cfg := Config.reference
      let p2 := u.ph.add (inc cfg u.freq u.sr)
      let seed := cfg.rngStep u.seed
      { u with
        ph := p2.wrap1.ftz
        seed := if NUM.one.le p2 then seed else u.seed
        rnd := if NUM.one.le p2 then ((NUM.two.mul (cfg.rngOut seed)).sub NUM.one).ftz else u.rnd } := by
  by_cases hwrap : NUM.one.le (u.ph.add (inc Config.reference u.freq u.sr)) = true
  · simp only [hwrap, if_true]
    exact if_pos hwrap
  · simp only [hwrap]
    exact if_neg hwrap

/-- `LFO.PROCESS` answers the value of the LFO as it stands and moves the LFO by one sample. -/
theorem exec_lfoProcess {s : State} {y : NUM} {u : Lfo NUM} (hvalue : s.lfo.value Config.reference = y)
    (hprocess : s.lfo.process Config.reference = u) :
    exec .lfoProcess s = .next (({ s with lfo := u } : State).respond 0#32 y.bits) :=
  doneWith_eq_next.2 (by rw [hvalue, hprocess])

/-- Settles O33: the value is read at the phase held, waveform by waveform, before the phase moves. -/
theorem lfoProcessByWaveform : Obligations.LfoProcessByWaveform := by
  refine fun s => exec_lfoProcess ?_ (Lfo.process_eq s.lfo)
  obtain ⟨p, rnd, seed, sr, freq, wave, variation⟩ := s.lfo
  cases wave with
  | sine | stepped | steppedRandom => rfl
  | triangle => exact lfoTriangle_reference p
  | square => exact lfoSquare_reference p

/-! ## The generator of the LFO and its waveform (R384) -/

/-- The LFO with another waveform. -/
def Lfo.withWave (u : Lfo NUM) (w : LfoWave) : Lfo NUM := { u with wave := w }

/-- One sample period neither reads nor writes the waveform. -/
theorem Lfo.process_withWave (u : Lfo NUM) (w : LfoWave) :
    (u.withWave w).process Config.reference = (u.process Config.reference).withWave w := by
  rw [Lfo.process_eq, Lfo.process_eq]
  rfl

/-- Two LFOs that are equal under one waveform have the same generator. -/
theorem Lfo.generator_eq_of_withWave_eq {u v : Lfo NUM} {w : LfoWave} (h : u.withWave w = v.withWave w) :
    u.ph = v.ph ∧ u.rnd = v.rnd ∧ u.seed = v.seed :=
  ⟨(congrArg Lfo.ph h :), (congrArg Lfo.rnd h :), (congrArg Lfo.seed h :)⟩

/-- What a step that takes an `LFO.SET_WAVE` leaves: the LFO but for its waveform (R385). -/
theorem step_lfoSetWave {s : State} {v : Data} {rest : List CommandWord}
    (hcmds : s.cmds = encode (.lfoSetWave v) :: rest) :
    ∃ t : State, step s = .next t ∧ t.cmds = rest ∧ ∀ w, t.lfo.withWave w = s.lfo.withWave w :=
  ⟨_, step_of_encode (Laws.RowFound.lfoSetWave v) rfl hcmds, rfl, fun _ => rfl⟩

/-- What a step that takes an `LFO.PROCESS` leaves (R384). -/
theorem step_lfoProcess {s : State} {rest : List CommandWord} (hcmds : s.cmds = encode .lfoProcess :: rest) :
    ∃ t : State, step s = .next t ∧ t.cmds = rest ∧ t.lfo = s.lfo.process Config.reference :=
  ⟨_, step_of_encode Laws.RowFound.lfoProcess rfl hcmds, rfl, rfl⟩

/-- Any number of `LFO.PROCESS` commands, with a waveform set before each, moves the LFO as those commands alone
would, the waveform apart. -/
theorem steps_setWave_process {vs : List Data} {s : State}
    (hcmds : s.cmds = vs.flatMap fun v => [encode (.lfoSetWave v), encode .lfoProcess]) :
    ∃ t : State, steps (2 * vs.length) s = .next t ∧
      ∀ w, t.lfo.withWave w = (Lfo.process Config.reference)^[vs.length] (s.lfo.withWave w) := by
  induction vs generalizing s with
  | nil => exact ⟨s, rfl, fun _ => rfl⟩
  | cons v vs ih =>
    obtain ⟨u, hset, hucmds, hu⟩ := step_lfoSetWave hcmds
    obtain ⟨u', hprocess, hucmds', hu'⟩ := step_lfoProcess hucmds
    obtain ⟨t, hrun, ht⟩ := ih hucmds'
    refine ⟨t, ?_, fun w => ?_⟩
    · rw [List.length_cons, Nat.mul_succ, steps_succ_of_step hset, steps_succ_of_step hprocess, hrun]
    · rw [ht, hu', ← Lfo.process_withWave, hu, List.length_cons, Function.iterate_succ_apply]

/-- Settles O34: the two LFOs are equal once they have the same waveform, and each run moves its LFO by as many samples,
the waveform apart. -/
theorem lfoGeneratorIgnoresTheWaveform : Obligations.LfoGeneratorIgnoresTheWaveform := by
  intro vs vs' s s' hlength hlfo hcmds hcmds'
  obtain ⟨t, hrun, ht⟩ := steps_setWave_process hcmds
  obtain ⟨t', hrun', ht'⟩ := steps_setWave_process hcmds'
  have hstart : s'.lfo.withWave s.lfo.wave = s.lfo.withWave s.lfo.wave := hlfo
  have hend : t'.lfo.withWave s.lfo.wave = t.lfo.withWave s.lfo.wave := by rw [ht, ht', hlength, hstart]
  exact ⟨t, t', hrun, hlength ▸ hrun', Lfo.generator_eq_of_withWave_eq hend⟩

end Sys2Proof.Machine

/-! The ladder filter (46_ladder_filter.md): what the operations of FLT answer and leave in the reference configuration. -/

namespace Sys2Proof.Machine

/-! ## The controls of the filter (R405 to R407, R409) -/

/-- Settles O35: each operation is one update of the filter, with which `done` answers. -/
theorem filterControls : Obligations.FilterControls := by
  intro v s
  and_intros <;> exact done_eq_next.2 rfl

/-! ## One sample of one channel (R408) -/

/-- A bank of four words, word by word. -/
theorem words_four (b : Bank 4 NUM) : b.words = [bankGet b 0, bankGet b 1, bankGet b 2, bankGet b 3] := by
  obtain ⟨words, hlen⟩ := b
  match words, hlen with
  | [_, _, _, _], _ => rfl

/-- The stage states of a channel after the sample `x`. -/
def Ladder.statesNext (u : Ladder NUM) (ch : Bank 4 NUM) (x : NUM) : Bank 4 NUM :=
  ⟨ladderStates Config.reference (u.gain Config.reference) ch.words (u.input Config.reference ch x),
    (ladderStates_length _ _ _).trans ch.len⟩

theorem Ladder.statesNext_words (u : Ladder NUM) (ch : Bank 4 NUM) (x : NUM) :
    (u.statesNext ch x).words = ladderStates Config.reference (u.gain Config.reference)
      [bankGet ch 0, bankGet ch 1, bankGet ch 2, bankGet ch 3] (u.input Config.reference ch x) := by
  rw [← words_four]
  rfl

/-- A sample moves the states of its channel and no other. -/
theorem Ladder.process_chanOf (u : Ladder NUM) (c : Idx) (x : NUM) :
    u.process Config.reference (chanOf c) x =
      let ch := u.statesNext (if c.getLsbD 0 then u.s.r else u.s.l) x
      { u with s := if c.getLsbD 0 then ⟨u.s.l, ch⟩ else ⟨ch, u.s.r⟩ } := by
  unfold chanOf
  split <;> rfl

/-- The wet signal is the output of the last of the channel's four stages. -/
theorem Ladder.output_chanOf (u : Ladder NUM) (c : Idx) (x : NUM) :
    u.output Config.reference (chanOf c) x =
      let ch := if c.getLsbD 0 then u.s.r else u.s.l
      dryWet Config.reference u.wet x (fxSat Config.reference (ladderOut Config.reference (u.gain Config.reference)
        [bankGet ch 0, bankGet ch 1, bankGet ch 2, bankGet ch 3] (u.input Config.reference ch x))) := by
  rw [output, stereoGet_chanOf, words_four]

/-- Settles O36: with the four states of the channel written out, the stages in series are the rule's. -/
theorem filterProcessesOneSample : Obligations.FilterProcessesOneSample := by
  refine fun c v s => ⟨s.flt.statesNext (if c.getLsbD 0 then s.flt.s.r else s.flt.s.l) (sampleOf Config.reference v),
    Ladder.statesNext_words .., doneWith_eq_next.2 ?_⟩
  rw [Ladder.process_chanOf, Ladder.output_chanOf]
  rfl

end Sys2Proof.Machine

/-! The dry mix of the filter and of the three effects (R411, R427, R449, R468): the wet signal counts for nothing at a wet or
an amount of 0, unless it is a NaN, and in a tame unit it is a number of bounded size. -/

namespace Sys2Proof.NUM

open Config (binary32)
open Machine (dryWet fxSat)

variable {a b m v w x z : NUM}

/-- A number that is itself a finite word rounds to that value. -/
theorem value_of_rounds (h : binary32.Rounds v (w.value : ℚ)) (hw : w.isFinite = true) :
    v.isFinite = true ∧ v.value = w.value := by
  obtain ⟨hv, hl, hh⟩ := (within_iff hw hw).1 (within_of_rounds h hw hw le_rfl le_rfl)
  exact ⟨hv, le_antisymm hh hl⟩

/-- Finite words of one value have one key. -/
theorem key_eq_of_value_eq (ha : a.isFinite = true) (hb : b.isFinite = true) (h : a.value = b.value) : a.key = b.key := by
  obtain ⟨-, -, hab⟩ := (le_iff a b).1 ((le_iff_value ha hb).2 h.le)
  obtain ⟨-, -, hba⟩ := (le_iff b a).1 ((le_iff_value hb ha).2 h.ge)
  exact le_antisymm hab hba

theorem mag_of_key_zero (h : a.key = 0) : a.mag = 0 := by
  unfold key at h
  split at h <;> omega

/-- The words with key 0 are the two zeros. -/
theorem zero_of_key (h : a.key = 0) : a.isFinite = true ∧ a.value = 0 := by
  have hmag := mag_of_key_zero h
  have hf : a.isFinite = true := (isFinite_iff a).2 (hmag ▸ by decide)
  have hzero : zero.key = a.key := h.symm ▸ by decide +kernel
  have hle : a.le zero = true := (le_iff _ _).2 ⟨isNaN_of_finite hf, by decide +kernel, hzero.ge⟩
  have hge : zero.le a = true := (le_iff _ _).2 ⟨by decide +kernel, isNaN_of_finite hf, hzero.le⟩
  rw [le_iff_value hf (by decide +kernel), value_zero] at hle
  rw [le_iff_value (by decide +kernel) hf, value_zero] at hge
  exact ⟨hf, le_antisymm hle hge⟩

theorem add_isNaN_right (h : b.isNaN = true) : (a.add b).isNaN = true := by
  rw [add, if_pos (by rw [h, Bool.or_true])]
  exact nan_isNaN ..

/-- With a mix of 0 each of the four operations of `(1 - m)·x + m·w` is exact, whatever the finite wet signal. -/
theorem dryWet_of_dry (hm : m.key = 0) (hx : x.isFinite = true) (hw : w.isFinite = true) :
    (dryWet Config.reference m x w).isFinite = true ∧ (dryWet Config.reference m x w).value = x.value := by
  obtain ⟨hfm, hvm⟩ := zero_of_key hm
  have hone : one.isFinite = true := by decide +kernel
  have hzero : zero.isFinite = true := by decide +kernel
  have hsub := sub_rounds hone hfm
  rw [hvm, sub_zero] at hsub
  obtain ⟨hf1, hv1⟩ := value_of_rounds hsub hone
  have hdry := mul_rounds hf1 hx
  rw [hv1, value_one, one_mul] at hdry
  obtain ⟨hfd, hvd⟩ := value_of_rounds hdry hx
  have hwet := mul_rounds hfm hw
  rw [hvm, zero_mul, ← value_zero] at hwet
  obtain ⟨hfw, hvw⟩ := value_of_rounds hwet hzero
  have hsum := add_rounds hfd hfw
  rw [hvd, hvw, value_zero, add_zero] at hsum
  exact value_of_rounds hsum hx

/-- `TANH` makes a finite word of anything but a NaN, and the mix of a NaN is a NaN. -/
theorem dryWet_fxSat_of_dry (hm : m.key = 0) (hx : x.isFinite = true) :
    let y := dryWet Config.reference m x (fxSat Config.reference z)
    (y.isNaN = true ∨ y.key = x.key) ∧ (z.isNaN = false → y.isNaN = false) := by
  cases hz : z.isNaN with
  | true => exact ⟨.inl (add_isNaN_right (mul_isNaN_right (tanh_isNaN hz))), nofun⟩
  | false =>
    obtain ⟨hf, hv⟩ := dryWet_of_dry (w := z.tanh) hm hx ((isFinite_iff _).2 ((below_tanh hz).finite (by decide)))
    exact ⟨.inr (key_eq_of_value_eq hf hx hv), fun _ => isNaN_of_finite hf⟩

theorem below_of_key_zero (h : a.key = 0) : a.Below 0 := by
  rw [Below, mag_of_key_zero h]
  exact Nat.zero_le _

end Sys2Proof.NUM

namespace Sys2Proof.Machine

open NUM

/-! ## What a unit answers with a mix of 0 -/

theorem below_of_range {lo hi v : NUM} {m : Nat} (h : within lo hi v = true) (hlo : lo.Below m) (hhi : hi.Below m) :
    v.Below m := by
  obtain ⟨hl, hh⟩ := Bool.and_eq_true_iff.1 h
  exact below_of_within hl hh hlo hhi

/-- A sample that enters a unit is between the bounds of the signal (R13). -/
theorem sampleOf_within (v : Data) :
    within Config.reference.sigMax.neg Config.reference.sigMax (sampleOf Config.reference v) = true :=
  Bool.and_eq_true_iff.2 (san_within (numOf v) (by decide +kernel))

theorem sampleOf_isFinite (v : Data) : (sampleOf Config.reference v).isFinite = true :=
  ((within_iff (by decide +kernel) (by decide +kernel)).1 (sampleOf_within v)).1

theorem sampleOf_below (v : Data) : (sampleOf Config.reference v).Below 4 :=
  below_of_range (sampleOf_within v) (below_const (by decide +kernel)) (below_const (by decide +kernel))

/-- An operation that answers a mix at 0 answers its sample, and a NaN only for a wet signal that is one. -/
theorem dry_of_doneWith {i : Instr} {s s' : State} {v : Data} {m z : NUM} {tame : Bool} (hm : m.key = 0)
    (hexec : exec i s =
      doneWith s' (dryWet Config.reference m (sampleOf Config.reference v) (fxSat Config.reference z)))
    (hkeep : s'.responses = s.responses) (hz : tame = true → z.isNaN = false) :
    ∃ (t : State) (y : NUM), exec i s = .next t ∧ t.responses = s.responses ++ [wordPair 0#32 y.bits] ∧
      (y.isNaN = true ∨ y.key = (sampleOf Config.reference v).key) ∧ (tame = true → y.isNaN = false) := by
  obtain ⟨hvalue, hnum⟩ := dryWet_fxSat_of_dry (z := z) hm (sampleOf_isFinite v)
  exact ⟨_, _, hexec, congrArg (· ++ _) hkeep, hvalue, fun h => hnum (hz h)⟩

/-! ## The wet signal of a tame unit (R171)

Every word of the unit is bounded, so is every intermediate result. The exponents of the bounds are not sharp. -/

/-! ### The filter (R403, R408) -/

/-- `g/(1 + g)` is from 0 to 1 (R403). -/
theorem div_one_add_within {g : NUM} {m : Nat} (hg : g.Nonneg) (bg : g.Below m) (hm : m < 127) :
    (g.div (one.add g)).Nonneg ∧ (g.div (one.add g)).Below 0 := by
  have hfg := bg.finite (by omega)
  have hfden := (below_add (below_one.mono (Nat.zero_le m)) bg hm).finite (by omega)
  have hden : (one.add g).OneLe := one_oneLe.add hg below_one bg (hn := by omega)
  have ⟨hnum, _, hone⟩ := hden
  have hle : g.mag ≤ (one.add g).mag := by
    rcases Nat.eq_zero_or_pos g.mag with hzero | hpos
    · omega
    · exact mag_le_add one_oneLe.nonneg hg (below_one.finite (by decide)) hfg hpos.ne'
  exact ⟨nonneg_div hg hden hfg hfden, below_div_of_le hg.1 hnum hfden (by omega) hle⟩

/-- A stage whose gain is at most 1 adds two to the exponent of the bound. -/
theorem ladderOut_below {h : NUM} (hh : h.Below 0) (l : List NUM) (hl : ∀ s ∈ l, s.tame = true) {m : Nat} {y : NUM}
    (hm : 32 ≤ m) (hy : y.Below m) (hlen : m + 2 * l.length < 127) :
    (ladderOut Config.reference h l y).Below (m + 2 * l.length) := by
  induction l generalizing m y with
  | nil => exact hy
  | cons s l ih =>
    rw [List.length_cons] at hlen ⊢
    obtain ⟨hs, hl⟩ := List.forall_mem_cons.1 hl
    have bs := (below_of_tame hs).mono hm
    have bstep := below_mul (below_sub hy bs (by omega)) hh (by omega)
    have bout := below_add bstep (bs.mono (Nat.le_succ m)) (by omega)
    exact (ih hl (by omega) bout (by omega)).mono (by omega)

section
variable {u : Ladder NUM}

theorem Ladder.tame_iff : u.tame Config.reference = true ↔ u.sr.isRate = true ∧ u.fc.tame = true ∧
    within zero (Config.reference.fcMaxRatio.mul u.sr) u.fc = true ∧ within zero Config.reference.resMax u.res = true ∧
    u.wet.inUnit = true ∧ ∀ c, (stereoGet u.s c).tame = true := by
  simp only [Ladder.tame, Bool.and_eq_true, and_assoc, Chan.forall_iff, stereoGet_left, stereoGet_right]

variable (hu : u.tame Config.reference = true)
include hu

theorem Ladder.g_within : (u.g Config.reference).Nonneg ∧ (u.g Config.reference).Below 17 := by
  obtain ⟨hsr, hfc, hrange, -⟩ := Ladder.tame_iff.1 hu
  obtain ⟨h0, hmax⟩ := Bool.and_eq_true_iff.1 hrange
  obtain ⟨hangle, hmag⟩ := angle_within hsr (nonneg_iff.2 h0) hmax (below_of_tame hfc)
  exact tan_within hangle hmag

theorem Ladder.one_add_g_within :
    (one.add (u.g Config.reference)).OneLe ∧ (one.add (u.g Config.reference)).Below 18 := by
  obtain ⟨hg, bg⟩ := g_within hu
  exact ⟨one_oneLe.add hg below_one bg, below_one.add bg⟩

theorem Ladder.gain_within : (u.gain Config.reference).Nonneg ∧ (u.gain Config.reference).Below 0 := by
  obtain ⟨hg, bg⟩ := g_within hu
  exact div_one_add_within hg bg (by decide)

theorem Ladder.k_within : (u.k Config.reference).Nonneg ∧ (u.k Config.reference).Below 2 := by
  obtain ⟨-, -, -, hres, -⟩ := Ladder.tame_iff.1 hu
  have bscale : Config.reference.resScale.Below 2 := below_const (by decide +kernel)
  have bmax : Config.reference.resMax.Below 0 := below_const (by decide +kernel)
  have bres := below_of_range hres below_zero bmax
  have hscale : Config.reference.resScale.Nonneg := nonneg_iff.2 (by decide +kernel)
  have bk := bscale.mul bres
  exact ⟨hscale.mul (nonneg_iff.2 (Bool.and_eq_true_iff.1 hres).1) bscale bres, bk⟩

theorem Ladder.zeroInput_below {ch : Bank 4 NUM} (hch : ch.tame = true) :
    (u.zeroInput Config.reference ch).Below 35 := by
  obtain ⟨-, bG⟩ := gain_within hu
  obtain ⟨hden, bden⟩ := one_add_g_within hu
  have bs := below_bankGet hch
  have bsum := ((((bG.mul bG).mul bG).mul (bs 0)).add ((bG.mul bG).mul (bs 1))).add (bG.mul (bs 2))
  exact (bsum.add (bs 3)).div hden bden

/-- The feedback is solved by a division by `1 + k·G^4`, which is at least 1 (R408). -/
theorem Ladder.input_below {ch : Bank 4 NUM} (hch : ch.tame = true) {x : NUM} (hx : x.Below 4) :
    (u.input Config.reference ch x).Below 38 := by
  obtain ⟨hG, bG⟩ := gain_within hu
  obtain ⟨hk, bk⟩ := k_within hu
  have bloop := (((bk.mul bG).mul bG).mul bG).mul bG
  have hloop := (((hk.mul hG bk bG).mul hG (bk.mul bG) bG).mul hG ((bk.mul bG).mul bG) bG).mul hG
    (((bk.mul bG).mul bG).mul bG) bG
  exact (hx.sub (bk.mul (zeroInput_below hu hch))).div (one_oneLe.add hloop below_one bloop) (below_one.add bloop)

/-- The output of the fourth stage. -/
theorem Ladder.out_below {ch : Bank 4 NUM} (hch : ch.tame = true) {x : NUM} (hx : x.Below 4) :
    (ladderOut Config.reference (u.gain Config.reference) ch.words (u.input Config.reference ch x)).Below 46 := by
  obtain ⟨-, bG⟩ := gain_within hu
  have hlen : ch.words.length = 4 := ch.len
  exact (ladderOut_below bG ch.words (List.all_eq_true.1 hch) (by decide) (input_below hu hch hx) (by omega)).mono
    (by omega)

end

/-! ### The delay (R425) -/

/-- The low-pass state after this sample, from a tap at any index. -/
theorem Delay.lpNext_below (u : Delay NUM) (c : Chan) (hch : (stereoGet u.ch c).tame = true) :
    (u.lpNext Config.reference c).Below 34 := by
  obtain ⟨hbuf, hlp⟩ := Bool.and_eq_true_iff.1 hch
  have bdamp : Config.reference.dlyDamp.Below 0 := below_const (by decide +kernel)
  have blp := below_of_tame hlp
  have btap := below_memRead hbuf Config.reference.dlyCap
    (((stereoGet u.ch c).w : Int) - dlen Config.reference u.amount)
  have bstep := blp.add (bdamp.mul (btap.sub blp))
  exact below_ftz bstep

/-! ### The chorus (R444 to R447) -/

theorem below_floor {a : NUM} {e : Nat} (ha : a.Below e) (he : e < 128) : a.floor.natAbs ≤ 2 ^ e := by
  obtain ⟨hl, hh⟩ := floor_within ha he
  zify
  exact abs_le.2 ⟨hl, hh⟩

/-- A fractional read at a position of bounded size, wherever its parts lie (R446). -/
theorem fread_below {buf : Memory NUM} (hbuf : Memory.tame buf = true) {pos : NUM} (hpos : pos.Below 20) :
    (fread Config.reference buf pos).Below 70 := by
  have hcap : (ofNat Config.reference.choCap).OneLe := oneLe_const (by decide +kernel)
  have bcap : (ofNat Config.reference.choCap).Below 13 := below_const (by decide +kernel)
  have bturns := below_floor (hpos.div hcap bcap) (by decide)
  have bwhole : (ofInt ((Config.reference.choCap : Int) *
      (pos.div (ofNat Config.reference.choCap)).floor)).Below 33 := by
    refine below_ofInt ?_ (by decide)
    rw [Int.natAbs_mul]
    exact (Nat.mul_le_mul (show (Config.reference.choCap : Int).natAbs ≤ 2 ^ 13 by decide +kernel) bturns).trans
      (by decide)
  have bq := hpos.sub bwhole
  have bfr := bq.sub (below_ofInt (below_floor bq (by decide)) (by decide))
  have bread := fun i => below_memRead hbuf Config.reference.choCap i
  unfold fread
  dsimp only
  split
  · exact (bread _).mono (by decide)
  · exact ((bread _).lerp (bread _) bfr).mono (by decide)

/-- The delay of a voice, for an amount of at most 1 (R445). -/
theorem choDelay_below {a phi : NUM} (ha : a.Below 0) (hphi : phi.inTurn = true) :
    (choDelay Config.reference a phi).Below 19 := by
  obtain ⟨h0, hturn⟩ := Bool.and_eq_true_iff.1 hphi
  have bturn : Config.reference.twoPi.Below 3 := below_const (by decide +kernel)
  have bphi := below_of_within h0 (NUM.le_of_lt hturn) (below_zero.mono (Nat.zero_le 3)) bturn
  have bmin : Config.reference.choDepthMin.Below 0 := below_const (by decide +kernel)
  have bspan : (Config.reference.choDepthMax.sub Config.reference.choDepthMin).Below 0 := below_const (by decide +kernel)
  have bbase : Config.reference.choBase.Below 0 := below_const (by decide +kernel)
  have bsr : Config.reference.sr.Below 16 := below_const (by decide +kernel)
  have bdelay := (bbase.add ((bmin.add (bspan.mul ha)).mul bphi.sin)).mul bsr
  exact bdelay

/-- The sum of the three reads, all at positions of bounded size (R447). -/
theorem ChorusChannel.voices_below {ch : ChorusChannel NUM} (hch : ch.tame Config.reference = true) {a : NUM}
    (ha : a.Below 0) : (ch.voices Config.reference a).Below 73 := by
  simp only [ChorusChannel.tame, Bool.and_eq_true, and_assoc, Nat.blt_eq] at hch
  obtain ⟨hbuf, hw, hphi⟩ := hch
  have hcap : Config.reference.choCap ≤ 2 ^ 13 := by decide +kernel
  have bw : (NUM.ofNat ch.w).Below 13 := below_ofInt (i := ch.w) (by rw [Int.natAbs_natCast]; omega) (by decide)
  have bread : ∀ v, (fread Config.reference ch.buf
      ((NUM.ofNat ch.w).sub (choDelay Config.reference a (bankGet ch.phi v)))).Below 70 := fun v => by
    have hturn : (bankGet ch.phi v).inTurn = true :=
      tableAt_of_all (P := fun p => p.inTurn = true) (by decide +kernel) (List.all_eq_true.1 hphi) v
    have bpos := bw.sub (choDelay_below ha hturn)
    exact fread_below hbuf bpos
  exact below_foldl (List.range 3) 70 zero (below_zero.mono (by decide)) (fun v _ => bread v) (by decide)

/-! ### The reverb (R464 to R466) -/

/-- The output `d - g·(t + g·d)` of an allpass (R465). -/
theorem Line.apOut_below {l : Line NUM} (hl : Memory.tame l.buf = true) (len : Nat) {t : NUM} {m : Nat} (ht : t.Below m)
    (hm : 32 ≤ m) (hm' : m < 100) : (l.apOut Config.reference len t).Below (m + 2) := by
  have bg : Config.reference.revApG.Below 0 := below_const (by decide +kernel)
  have bd : (l.out Config.reference len).Below m := (below_memRead hl _ _).mono hm
  have bgd := below_mul bg bd (by omega)
  have bin := below_add ht (bgd.mono (by omega)) (by omega)
  have bgin := below_mul bg bin (by omega)
  exact below_sub (bd.mono (Nat.le_succ m)) (bgin.mono (by omega)) (by omega)

theorem ReverbChannel.second_below {ch : ReverbChannel NUM} (hch : ch.tame = true) (c : Chan) :
    (ch.second Config.reference c).Below 40 := by
  simp only [ReverbChannel.tame, Bool.and_eq_true, and_assoc] at hch
  obtain ⟨h0, h1, h2, h3, hap0, hap1⟩ := hch
  have bmix : Config.reference.revCombMix.Below 0 := below_const (by decide +kernel)
  have bout := fun {l : Line NUM} (hl : Memory.tame l.buf = true) (j : Nat) =>
    below_memRead hl (revCombLen Config.reference c j) l.idx
  have bcombs := bmix.mul ((((below_zero.add (bout h0 0)).add (bout h1 1)).add (bout h2 2)).add (bout h3 3))
  exact Line.apOut_below hap1 _ (Line.apOut_below hap0 _ bcombs (by decide) (by decide)) (by decide) (by decide)

/-! ## The four units with a dry mix (R411, R427, R449, R468) -/

/-- Settles O37: a mix at 0 gives the sample back unless the wet signal is a NaN, and that of a tame unit is a number of
bounded size. -/
theorem dryUnitReturnsItsInput : Obligations.DryUnitReturnsItsInput := by
  intro c v s x right dry
  simp only [dry, right, ← apply_ite DelayChannel.tame, ← apply_ite (ChorusChannel.tame _),
    ← apply_ite ReverbChannel.tame, ← stereoGet_chanOf]
  refine ⟨fun hm => dry_of_doneWith hm rfl rfl fun htame => ?_, fun hm => dry_of_doneWith hm rfl rfl fun htame => ?_,
    fun hm => dry_of_doneWith hm rfl rfl fun htame => ?_, fun hm => dry_of_doneWith hm rfl rfl fun htame => ?_⟩
  · obtain ⟨-, -, -, -, -, hch⟩ := Ladder.tame_iff.1 htame
    exact (Ladder.out_below htame (hch (chanOf c)) (sampleOf_below v)).notNaN (by decide)
  · exact (Delay.lpNext_below s.dly (chanOf c) htame).notNaN (by decide)
  · have hthree : (ofNat 3).OneLe := oneLe_const (by decide +kernel)
    have bthree : (ofNat 3).Below 2 := below_const (by decide +kernel)
    have bmean := (ChorusChannel.voices_below htame (below_of_key_zero hm)).div hthree bthree
    exact bmean.notNaN (by decide)
  · exact (ReverbChannel.second_below htame (chanOf c)).notNaN (by decide)

end Sys2Proof.Machine

/-! The delay, the chorus (47_delay_chorus.md) and the reverb (48_reverb.md): what the operations of DLY, CHO and REV answer
and leave, in the reference configuration. -/

namespace Sys2Proof.Machine

/-! ## Amounts and resets (R423, R426, R443, R448, R463, R467) -/

/-- Settles O38: each operation is one update of its effect, with which `done` answers. -/
theorem effectAmountsAndResets : Obligations.EffectAmountsAndResets := by
  intro v s a phi line rev
  and_intros <;> exact done_eq_next.2 rfl

/-! ## The channel and the mix (R408, R412) -/

/-- A unit writes the channel named and keeps the other. -/
theorem stereoSet_chanOf {α : Type} (y : Stereo α) (c : Idx) (a : α) :
    stereoSet y (chanOf c) a = if c.getLsbD 0 then ⟨y.l, a⟩ else ⟨a, y.r⟩ := by
  unfold chanOf
  split <;> rfl

theorem fxSat_reference (y : NUM) :
    fxSat Config.reference y = if Config.reference.fxSat then Config.reference.tanh y else y := rfl

theorem dryWet_reference (m x w : NUM) :
    dryWet Config.reference m x w = ((NUM.one.sub m).mul x).add (m.mul w) := rfl

/-! ## One sample of DLY (R425) -/

/-- Settles O39: the low-pass state that is stored, fed back and mixed is computed from the channel's tap, read in the old
buffer. -/
theorem delayProcessesOneSample : Obligations.DelayProcessesOneSample := by
  refine fun c v s => doneWith_eq_next.2 ?_
  simp only [Delay.process, Delay.output, Delay.lpNext, stereoSet_chanOf, stereoGet_chanOf]
  rfl

/-! ## One sample of CHO (R447) -/

/-- The fractional read of voice `j` (R445 to R447). -/
def ChorusChannel.voice {N : Type} (cfg : Config.Parameters N) (ch : ChorusChannel N) (a : N) (j : Nat) : N :=
  fread cfg ch.buf (cfg.sub (cfg.ofNat ch.w) (choDelay cfg a (bankGet ch.phi j cfg)))

/-- The three voices are summed in order. -/
theorem ChorusChannel.voices_eq {N : Type} (cfg : Config.Parameters N) (ch : ChorusChannel N) (a : N) :
    ch.voices cfg a =
      cfg.add (cfg.add (cfg.add cfg.zero (ch.voice cfg a 0)) (ch.voice cfg a 1)) (ch.voice cfg a 2) := rfl

/-- A voice reads between two neighbouring words, but for the last word of the buffer, which it reads alone. -/
theorem ChorusChannel.voice_reference (ch : ChorusChannel NUM) (a : NUM) (j : Nat) :
    ch.voice Config.reference a j =
      let cfg := Config.reference
      let depth := cfg.choDepthMin.add ((cfg.choDepthMax.sub cfg.choDepthMin).mul a)
      let delay := (cfg.choBase.add (depth.mul (cfg.sin (bankGet ch.phi j)))).mul cfg.sr
      let cap : Int := cfg.choCap
      let pos := (NUM.ofNat ch.w).sub delay
      let q := pos.sub (NUM.ofInt (cap * (pos.div (NUM.ofInt cap)).floor))
      if q.floor = cap - 1 then memRead cfg.choCap ch.buf q.floor
      else (memRead cfg.choCap ch.buf q.floor).lerp (memRead cfg.choCap ch.buf (q.floor + 1))
        (q.sub (NUM.ofInt q.floor)) := rfl

/-- The wet signal is the mean of the channel's three voices. -/
theorem Chorus.output_chanOf (u : Chorus NUM) (c : Idx) (x : NUM) :
    u.output Config.reference (chanOf c) x =
      let ch := if c.getLsbD 0 then u.ch.r else u.ch.l
      let voice := ch.voice Config.reference u.amount
      let mean := (((NUM.zero.add (voice 0)).add (voice 1)).add (voice 2)).div (NUM.ofNat 3)
      let wet := if Config.reference.fxSat then Config.reference.tanh mean else mean
      ((NUM.one.sub u.amount).mul x).add (u.amount.mul wet) := by
  rw [output, stereoGet_chanOf, ChorusChannel.voices_eq, dryWet_reference, fxSat_reference]
  rfl

theorem bankGet_choPhaseNext {n j : Nat} (hj : j < n) (a : NUM) (b : Bank n NUM) :
    bankGet (bankMap (fun _ p => choPhaseNext Config.reference a p) b) j =
      choPhaseNext Config.reference a (bankGet b j) :=
  bankGet_bankMap Config.reference _ b j hj

/-- Settles O41: the reads take the old buffer, and the three phases move by one increment, each wrapped by itself. -/
theorem chorusProcessesOneSample : Obligations.ChorusProcessesOneSample := by
  refine fun c v s => ⟨bankMap (fun _ p => choPhaseNext Config.reference s.cho.amount p) _,
    fun j hj => bankGet_choPhaseNext hj s.cho.amount _, doneWith_eq_next.2 ?_⟩
  rw [Chorus.process, Chorus.output_chanOf, stereoSet_chanOf, stereoGet_chanOf]
  simp only [ChorusChannel.voice_reference]
  rfl

/-! ## One sample of REV (R466) -/

/-- Settles O42: the combs and the allpasses take the lines and the lengths of the channel named. -/
theorem reverbProcessesOneSample : Obligations.ReverbProcessesOneSample := by
  refine fun c v s => doneWith_eq_next.2 ?_
  simp only [Reverb.process, Reverb.output, ReverbChannel.second, ReverbChannel.first, ReverbChannel.combs,
    stereoSet_chanOf, stereoGet_chanOf, revCombLen_chanOf, revApLen_chanOf]
  rfl

end Sys2Proof.Machine

/-! The voice pipeline (49_voice_pipeline.md), its host operations: parameters, note events and the full reset, in the
reference configuration. -/

namespace Sys2Proof.Machine

/-! ## Parameters (R485, R486) -/

/-- `PARAM_SET` of an index above 18 writes nothing (R485). -/
theorem exec_pipeParamSet_above {i : Idx} (hi : 18 < i.toNat) (v : Data) (s : State) :
    exec (.pipeParamSet i v) s = done s := by
  have hreg : ¬ paramIndexOf i < Config.reference.nParams := Nat.not_lt.2 hi
  have hexec : exec (.pipeParamSet i v) s = execPipeParamSet i v s := rfl
  rw [hexec, execPipeParamSet, if_neg hreg]

/-- `PARAM_GET` of an index above 18 answers +0.0 (R486). -/
theorem exec_pipeParamGet_above {i : Idx} (hi : 18 < i.toNat) (s : State) :
    exec (.pipeParamGet i) s = doneWith s NUM.zero := by
  have hreg : ¬ paramIndexOf i < Config.reference.nParams := Nat.not_lt.2 hi
  have hexec : exec (.pipeParamGet i) s = execPipeParamGet i s := rfl
  rw [hexec, execPipeParamGet, if_neg hreg]
  rfl

/-- Settles O43: the two operations on a register that exists, and on an index above the last one. -/
theorem parameterAccess : Obligations.ParameterAccess := by
  refine fun i v s => ⟨fun hi => ⟨_, rfl, exec_pipeParamSet hi v s⟩, fun hi => exec_pipeParamSet_above hi v s, ?_⟩
  split
  next hi => exact exec_pipeParamGet hi s
  next hi => exact exec_pipeParamGet_above (Nat.lt_of_not_le hi) s

/-! ## Note events (R487, R488, R493, R494) -/

theorem noteOffMatches_iff (p : Pipe NUM) (n : BitVec 7) :
    noteOffMatches p n = true ↔ p.gate = true ∧ n = p.heldNote := by
  rw [noteOffMatches, Bool.and_eq_true, decide_eq_true_eq]

theorem State.noteOff_reference (s : State) (n : BitVec 7) : s.noteOff Config.reference n =
    if s.pipe.gate = true ∧ n = s.pipe.heldNote
    then { s with
      pipe := { s.pipe with gate := false }
      adsr := { s.adsr with st := .release }
      ad := { s.ad with st := .idle, level := NUM.zero } }
    else s :=
  if_congr (noteOffMatches_iff s.pipe n) rfl rfl

/-- Settles O46: `NOTE_ON` is the note-on event but at velocity 0, where it is the note-off event, as `NOTE_OFF` is. -/
theorem noteEvents : Obligations.NoteEvents := by
  intro note vel s n f on on' off
  have hoff : s.noteOff Config.reference n = off := s.noteOff_reference n
  have hon : s.noteOn Config.reference n = on' := rfl
  rw [← hoff, ← hon]
  exact ⟨rfl, rfl⟩

/-- Of PIPE's fields a note-on event writes the note state (R493). -/
theorem State.Of.noteOn_pipe {N : Type} (cfg : Config.Parameters N) (s : State.Of N) (n : BitVec 7) :
    (s.noteOn cfg n).pipe =
      { s.pipe with heldNote := n, noteFreq := cfg.ftz (notefreq cfg n), gate := true, hasNote := true } := by
  unfold State.Of.noteOn
  dsimp only
  split <;> simp

theorem exec_pipeNoteOn (note : Idx) {vel : Data} (hvel : vel.extractLsb' 0 7 ≠ 0#7) (s : State) :
    exec (.pipeNoteOn note vel) s = done (s.noteOn Config.reference (noteOf note)) :=
  congrArg done (if_neg hvel)

/-- `POW(2, 0)` is exactly 1 (R484). -/
theorem notefreq_a4 : (notefreq Config.reference 69#7).ftz = ⟨0x43DC0000#32⟩ := by decide +kernel

/-- `POW(2, 1)` is exactly 2 (R484). -/
theorem notefreq_a5 : (notefreq Config.reference 81#7).ftz = ⟨0x445C0000#32⟩ := by decide +kernel

/-- Settles O47: a note-on stores the note's frequency whatever the state, and the two frequencies are exact. -/
theorem concertPitchIsExact : Obligations.ConcertPitchIsExact := by
  intro vel s hvel
  refine ⟨_, _, exec_pipeNoteOn 69#16 hvel s, ?_, exec_pipeNoteOn 81#16 hvel s, ?_⟩
  · rw [State.Of.respond_pipe, State.Of.noteOn_pipe]
    exact notefreq_a4
  · rw [State.Of.respond_pipe, State.Of.noteOn_pipe]
    exact notefreq_a5

/-! ## The full reset (R489, R570) -/

/-- Settles O55: each reset of a unit leaves the values of power-on in it, and `PL` stays as it is. -/
theorem fullResetRestoresPowerOn : Obligations.FullResetRestoresPowerOn :=
  fun s => ⟨s.pipe.pl, done_eq_next.2 rfl⟩

end Sys2Proof.Machine

/-! The engine selector (R503): on the words between two halves the sum `v + 0.5` rounds to a word between two exact sums
of one floor. -/

namespace Sys2Proof.NUM

variable {a b c v lo hi : NUM}

/-- The word before a positive one. -/
def pred (a : NUM) : NUM := ofMag false (a.mag - 1)

theorem le_pred_of_lt (hb : zero.lt b = true) (h : a.lt b = true) : a.le b.pred = true := by
  obtain ⟨hnan, hsign, hpos⟩ := (pos_iff b).1 hb
  obtain ⟨hna, -, hkey⟩ := (lt_iff a b).1 h
  have hmag := (isNaN_eq_false_iff b).1 hnan
  have hpred : b.pred.mag = b.mag - 1 := ofMag_mag false _ (by have := b.mag_lt; omega)
  have hpredKey : b.pred.key = ((b.mag - 1 : Nat) : Int) := key_ofMag false (by omega)
  have hbKey : b.key = b.mag := by rw [key, hsign, if_neg Bool.false_ne_true]
  exact (le_iff _ _).2 ⟨hna, (isNaN_eq_false_iff _).2 (by omega), by omega⟩

theorem not_le_of_lt (h : a.lt b = true) : ¬ b.le a = true := fun hle =>
  absurd ((lt_iff _ _).1 h).2.2 (not_lt_of_ge ((le_iff _ _).1 hle).2.2)

theorem not_lt_of_le (h : a.le b = true) : ¬ b.lt a = true := fun hlt => not_le_of_lt hlt h

/-- No rounding takes part in the sum. -/
def ExactSum (a c : NUM) : Prop := (a.add c).isFinite = true ∧ (a.add c).units = a.units + c.units

/-- A sum lies between two exact sums when its first operand lies between theirs. -/
theorem within_add (hlo : lo.isFinite = true) (hhi : hi.isFinite = true) (hc : c.isFinite = true)
    (elo : lo.ExactSum c) (ehi : hi.ExactSum c) (hv : within lo hi v = true) :
    within (lo.add c) (hi.add c) (v.add c) = true := by
  obtain ⟨flo, ulo⟩ := elo
  obtain ⟨fhi, uhi⟩ := ehi
  obtain ⟨hl, hh⟩ := Bool.and_eq_true_iff.1 hv
  have hfin : v.isFinite = true := ((within_iff hlo hhi).1 hv).1
  have hll := (le_iff_units hlo hfin).1 hl
  have hhh := (le_iff_units hfin hhi).1 hh
  obtain ⟨-, hround⟩ := add_roundsUnits hfin hc
  exact Bool.and_eq_true_iff.2 ⟨(hround _ flo).1 (by omega), (hround _ fhi).2 (by omega)⟩

/-- Between two finite words of one floor every word has that floor. -/
theorem floor_eq_of_within (hlo : lo.isFinite = true) (hhi : hi.isFinite = true) (h : lo.floor = hi.floor)
    (hv : within lo hi v = true) : v.floor = hi.floor := by
  obtain ⟨hfin, hl, hh⟩ := (within_iff hlo hhi).1 hv
  rw [floor_value hlo, floor_value hhi] at h
  rw [floor_value hfin, floor_value hhi]
  exact le_antisymm (Int.floor_mono hh) (h ▸ Int.floor_mono hl)

/-- The word of `i - 0.5`, the least that selects engine `i`. -/
def cellStart (i : Nat) : NUM := ofRat (2 * (i : Int) - 1) 2

/-- The word of `i + 0.5`, the least above those that select engine `i`. -/
def cellEnd (i : Nat) : NUM := ofRat (2 * (i : Int) + 1) 2

/-- The cells of engines 1 to 11 lie one behind the other from 0.5 to 11.5. -/
theorem cell_bounds : ∀ i < 12, 0 < i → (ofRat 1 2).le (cellStart i) = true ∧ (cellEnd i).le (ofRat 23 2) = true ∧
    zero.lt (cellEnd i) = true := by decide +kernel

/-- The first and the last word of a cell are finite. -/
theorem cell_isFinite : ∀ i < 12, 0 < i → (cellStart i).isFinite = true ∧ (cellEnd i).pred.isFinite = true := by
  decide +kernel

/-- With 0.5 added, both have the floor `i`, and the sums are exact: in a cell, which ends at no power of 2, the last word
has the spacing of the words just below `i + 1`. -/
theorem cell_sums : ∀ i < 12, 0 < i → (cellStart i).ExactSum (ofRat 1 2) ∧ (cellEnd i).pred.ExactSum (ofRat 1 2) ∧
    ((cellStart i).add (ofRat 1 2)).floor = i ∧ ((cellEnd i).pred.add (ofRat 1 2)).floor = i := by
  unfold ExactSum
  decide +kernel

/-- Every word of a cell rounds to the cell's engine. -/
theorem round_of_cell {i : Nat} (hi : i < 12) (h0 : 0 < i) (hstart : (cellStart i).le v = true)
    (hend : v.lt (cellEnd i) = true) : v.round = i := by
  obtain ⟨-, -, hpos⟩ := cell_bounds i hi h0
  obtain ⟨hlo, hhi⟩ := cell_isFinite i hi h0
  obtain ⟨exactLo, exactHi, floorLo, floorHi⟩ := cell_sums i hi h0
  have hcell : within (cellStart i) (cellEnd i).pred v = true :=
    Bool.and_eq_true_iff.2 ⟨hstart, le_pred_of_lt hpos hend⟩
  have hsum := within_add hlo hhi (by decide +kernel) exactLo exactHi hcell
  rw [round_def, floor_eq_of_within exactLo.1 exactHi.1 (floorLo.trans floorHi.symm) hsum, floorHi]

end Sys2Proof.NUM

namespace Sys2Proof.Machine

variable {v : NUM}

theorem sel_of_isNaN (h : v.isNaN = true) : sel Config.reference v = .sine := if_pos h

/-- From 0.5 up the selector rounds, but for the values above the range. -/
theorem sel_of_half_le (h : (NUM.ofRat 1 2).le v = true) : sel Config.reference v =
    if (NUM.ofRat 23 2).le v then .pwm else engineOfIndex v.round.toNat := by
  obtain ⟨-, hnan, -⟩ := (NUM.le_iff _ _).1 h
  have hbelow : ¬ v.lt (NUM.ofRat (-1) 2) = true := NUM.not_lt_of_le (NUM.le_trans (by decide +kernel) h)
  have hmiddle : ¬ ((NUM.ofRat (-1) 2).le v && v.lt (NUM.ofRat 1 2)) = true := fun hc =>
    NUM.not_lt_of_le h (Bool.and_eq_true_iff.1 hc).2
  exact (if_neg (Bool.eq_false_iff.1 hnan)).trans ((if_neg hmiddle).trans (if_neg hbelow))

/-- Below 0.5 there is engine 0, inside [-0.5, 0.5) and below it. -/
theorem sel_of_lt_half (h : v.lt (NUM.ofRat 1 2) = true) : sel Config.reference v = .sine := by
  obtain ⟨hnan, -, -⟩ := (NUM.lt_iff _ _).1 h
  refine (if_neg (Bool.eq_false_iff.1 hnan)).trans ?_
  cases hle : (NUM.ofRat (-1) 2).le v with
  | true => exact if_pos (Bool.and_eq_true_iff.2 ⟨hle, h⟩)
  | false =>
    have hbelow : v.lt (NUM.ofRat (-1) 2) = true := NUM.lt_of_not_le (by decide +kernel) hnan hle
    have hmiddle : ¬ ((NUM.ofRat (-1) 2).le v && v.lt (NUM.ofRat 1 2)) = true := by simp [hle]
    exact (if_neg hmiddle).trans (if_pos hbelow)

theorem index_pos {k : Engine} (hk : k ≠ .sine) : 0 < k.index := by
  cases k with
  | sine => exact absurd rfl hk
  | _ => decide

/-- Settles O48: the words that do not round are those below 0.5 and from 11.5 up, and the cells of the other engines lie
between. -/
theorem selectorRoundsToTheNearestEngine : Obligations.SelectorRoundsToTheNearestEngine := by
  refine ⟨fun v => sel_of_isNaN, fun v => sel_of_lt_half, fun v h => ?_, fun k v hk hstart hend => ?_⟩
  · rw [sel_of_half_le (NUM.le_trans (by decide +kernel) h), if_pos h]
  · have hindex : k.index < 12 := Nat.lt_succ_of_le (engine_index_le k)
    obtain ⟨hhalf, htop, -⟩ := NUM.cell_bounds k.index hindex (index_pos hk)
    have hbelow : ¬ (NUM.ofRat 23 2).le v = true := fun hc => NUM.not_le_of_lt hend (NUM.le_trans htop hc)
    rw [sel_of_half_le (NUM.le_trans hhalf hstart), if_neg hbelow,
      NUM.round_of_cell hindex (index_pos hk) hstart hend, Int.toNat_natCast, engineOfIndex_index]

end Sys2Proof.Machine

/-! One block and one frame of the pipeline: the block of no frames (R496) and the seven steps of a sample tick (R500). -/

namespace Sys2Proof.Machine

section
variable {N : Type} (cfg : Config.Parameters N) (s : State.Of N)

/-- The silence detector clears the delay and the chorus on the edge (R507). -/
theorem State.Of.tickSilence_eq (env : N) : s.tickSilence cfg env =
    let edge := silenceEdge cfg s.pipe.wasSilent env
    { s with
      dly := if edge then s.dly.reset cfg else s.dly
      cho := if edge then s.cho.reset cfg else s.cho
      pipe := { s.pipe with wasSilent := isSilent cfg env } } := by
  unfold tickSilence
  dsimp only
  split <;> rfl

end

/-- In the reference configuration a change of the engine resets nothing (R503). -/
theorem State.tickSelect_reference (s : State) :
    s.tickSelect Config.reference = s.selectEngine Config.reference s.pipe.pl.sel := by
  rw [tickSelect_eq, if_neg (by simp)]

/-- Settles O49: the block of no frames is its latching and its programming alone. -/
theorem emptyBlockLatchesAndPrograms : Obligations.EmptyBlockLatchesAndPrograms :=
  fun _ => done_eq_next.2 rfl

/-- Settles O50: the tick's intermediate states are the statement's, step by step, and its two last steps agree. -/
theorem oneFrameRunsTheSevenSteps : Obligations.OneFrameRunsTheSevenSteps := by
  intro M s0 _ s adsr ad env lfo s1 f k s2
  have hkept : s2 = s1 := if_neg fun h => nomatch h.2
  clear_value s2
  subst hkept
  intro s3 s4 y s5 gsc x silent edge dly cho xf xd xc xr
  have hselect : (s.tickModulators Config.reference).tickSelect Config.reference = s4 :=
    State.tickSelect_reference _
  have hsel : s4.pipe.pl.sel = k := by
    rw [State.Of.programEngine_pipe]
  have hwas : s5.pipe.wasSilent = s.pipe.wasSilent := by
    rw [State.Of.engineAdvance_pipe, State.Of.programEngine_pipe]
  have hsource : s.tickSource Config.reference = s5 := by
    rw [State.Of.tickSource, hselect, hsel]
  have hscaled : s.tickScaled Config.reference = x := by
    rw [State.Of.tickScaled, hselect, hsel]
    rfl
  have hsilence : (s.tickSource Config.reference).tickSilence Config.reference env =
      { s5 with dly := dly, cho := cho, pipe := { s5.pipe with wasSilent := silent } } := by
    rw [hsource, State.Of.tickSilence_eq, hwas]
    rfl
  refine done_eq_next.2 ?_
  change _ = (s.tick Config.reference).respond 0#32 0#32
  rw [State.Of.tick, hscaled, hsilence]
  rfl

end Sys2Proof.Machine

/-! The silence-to-active edge (R507): what one sample tick leaves in the delay and the chorus. -/

namespace Sys2Proof.Machine

section
variable {N : Type} [DecidableEq N] (cfg : Config.Parameters N)

theorem stereoGet_bothNext_delay (u : Delay N) (x : Stereo N) (c : Chan) : ∃ v,
    (stereoGet (bothNext (Delay.process cfg) u x).ch c).buf =
      memWrite cfg.dlyCap (stereoGet u.ch c).buf (stereoGet u.ch c).w v cfg ∧
    (stereoGet (bothNext (Delay.process cfg) u x).ch c).w = cursorNext cfg.dlyCap (stereoGet u.ch c).w := by
  cases c <;> exact ⟨_, rfl, rfl⟩

theorem stereoGet_bothNext_chorus (u : Chorus N) (x : Stereo N) (c : Chan) : ∃ v,
    (stereoGet (bothNext (Chorus.process cfg) u x).ch c).buf =
      memWrite cfg.choCap (stereoGet u.ch c).buf (stereoGet u.ch c).w v cfg ∧
    (stereoGet (bothNext (Chorus.process cfg) u x).ch c).w = cursorNext cfg.choCap (stereoGet u.ch c).w := by
  cases c <;> exact ⟨_, rfl, rfl⟩

omit [DecidableEq N] in
theorem stereoGet_delayReset (u : Delay N) (c : Chan) : stereoGet (u.reset cfg).ch c = DelayChannel.clear cfg := by
  cases c <;> rfl

omit [DecidableEq N] in
theorem stereoGet_chorusReset (u : Chorus N) (c : Chan) : stereoGet (u.reset cfg).ch c = ChorusChannel.clear cfg := by
  cases c <;> rfl

/-- One write into a cleared buffer, at 0, leaves every other word +0.0. -/
theorem memRead_memWrite_clear {cap j : Nat} (h1 : 1 ≤ j) (hj : j < cap) (v : N) :
    memRead cap (memWrite cap [] (0 : Nat) v cfg) j cfg = cfg.zero := by
  have hne : ¬ (j : Int) % (cap : Int) = ((0 : Nat) : Int) % (cap : Int) := by
    rw [Int.emod_eq_of_lt (by omega) (by omega)]
    simpa using Nat.one_le_iff_ne_zero.1 h1
  rw [memRead_memWrite (memory_wf_nil cap) (by omega), if_neg hne, memRead_nil]

theorem cursorNext_zero {cap : Nat} (h : 1 < cap) : cursorNext cap 0 = 1 := Nat.mod_eq_of_lt h

variable (s : State.Of N)

/-- The delay of a tick runs once per channel, cleared first on the edge. -/
theorem State.Of.tick_dly : ∃ x, (s.tick cfg).dly = bothNext (Delay.process cfg)
    (if silenceEdge cfg s.pipe.wasSilent (s.adsr.process cfg).level then s.dly.reset cfg else s.dly) x := by
  simp only [State.Of.tick, State.Of.tickSource, emit_dly, tickEffects_dly, tickSilence_dly, engineAdvance_dly,
    engineAdvance_pipe, tickSelect_dly, tickSelect_pipe, tickModulators_dly, tickModulators_pipe]
  exact ⟨_, rfl⟩

/-- So does the chorus. -/
theorem State.Of.tick_cho : ∃ x, (s.tick cfg).cho = bothNext (Chorus.process cfg)
    (if silenceEdge cfg s.pipe.wasSilent (s.adsr.process cfg).level then s.cho.reset cfg else s.cho) x := by
  simp only [State.Of.tick, State.Of.tickSource, emit_cho, tickEffects_cho, tickSilence_cho, engineAdvance_cho,
    engineAdvance_pipe, tickSelect_cho, tickSelect_pipe, tickModulators_cho, tickModulators_pipe]
  exact ⟨_, rfl⟩

theorem State.Of.tick_wasSilent : (s.tick cfg).pipe.wasSilent = isSilent cfg (s.adsr.process cfg).level := by
  simp only [State.Of.tick, emit_pipe, tickEffects_pipe, tickSilence_pipe]

variable {cfg s}

theorem State.Of.tick_dly_of_edge (hedge : silenceEdge cfg s.pipe.wasSilent (s.adsr.process cfg).level = true)
    (hcap : 1 < cfg.dlyCap) (c : Chan) : (stereoGet (s.tick cfg).dly.ch c).w = 1 ∧
      ∀ j : Nat, 1 ≤ j → j < cfg.dlyCap → memRead cfg.dlyCap (stereoGet (s.tick cfg).dly.ch c).buf j cfg = cfg.zero := by
  obtain ⟨x, hdly⟩ := s.tick_dly cfg
  rw [if_pos hedge] at hdly
  obtain ⟨v, hbuf, hw⟩ := stereoGet_bothNext_delay cfg (s.dly.reset cfg) x c
  rw [hdly, hbuf, hw, stereoGet_delayReset]
  exact ⟨cursorNext_zero hcap, fun j h1 hj => memRead_memWrite_clear cfg h1 hj v⟩

theorem State.Of.tick_cho_of_edge (hedge : silenceEdge cfg s.pipe.wasSilent (s.adsr.process cfg).level = true)
    (hcap : 1 < cfg.choCap) (c : Chan) : (stereoGet (s.tick cfg).cho.ch c).w = 1 ∧
      ∀ j : Nat, 1 ≤ j → j < cfg.choCap → memRead cfg.choCap (stereoGet (s.tick cfg).cho.ch c).buf j cfg = cfg.zero := by
  obtain ⟨x, hcho⟩ := s.tick_cho cfg
  rw [if_pos hedge] at hcho
  obtain ⟨v, hbuf, hw⟩ := stereoGet_bothNext_chorus cfg (s.cho.reset cfg) x c
  rw [hcho, hbuf, hw, stereoGet_chorusReset]
  exact ⟨cursorNext_zero hcap, fun j h1 hj => memRead_memWrite_clear cfg h1 hj v⟩

theorem State.Of.tick_dly_of_no_edge (hedge : silenceEdge cfg s.pipe.wasSilent (s.adsr.process cfg).level = false)
    (c : Chan) : (stereoGet (s.tick cfg).dly.ch c).w = ((stereoGet s.dly.ch c).w + 1) % cfg.dlyCap := by
  obtain ⟨x, hdly⟩ := s.tick_dly cfg
  obtain ⟨-, -, hw⟩ := stereoGet_bothNext_delay cfg s.dly x c
  rw [hdly, if_neg (Bool.eq_false_iff.1 hedge), hw]
  rfl

theorem State.Of.tick_cho_of_no_edge (hedge : silenceEdge cfg s.pipe.wasSilent (s.adsr.process cfg).level = false)
    (c : Chan) : (stereoGet (s.tick cfg).cho.ch c).w = ((stereoGet s.cho.ch c).w + 1) % cfg.choCap := by
  obtain ⟨x, hcho⟩ := s.tick_cho cfg
  obtain ⟨-, -, hw⟩ := stereoGet_bothNext_chorus cfg s.cho x c
  rw [hcho, if_neg (Bool.eq_false_iff.1 hedge), hw]
  rfl

end

/-- Settles O54: the block's one tick clears both units before they run when its edge is there, and in each channel they
then write one word and advance the cursor once. -/
theorem silenceToActiveEdgeClearsDelayAndChorus : Obligations.SilenceToActiveEdgeClearsDelayAndChorus := by
  intro M s0 _ env edge
  let cfg := Config.reference
  have hdlyCap : 1 < cfg.dlyCap := by decide +kernel
  have hchoCap : 1 < cfg.choCap := by decide +kernel
  let s := s0.startBlock cfg
  have hedge : edge = silenceEdge cfg s.pipe.wasSilent (s.adsr.process cfg).level := rfl
  refine ⟨(s.tick cfg).respond 0#32 0#32, rfl, s.tick_wasSilent cfg, fun h => ?_, fun h => ?_⟩
  · rw [hedge] at h
    have hdly := State.Of.tick_dly_of_edge h hdlyCap
    have hcho := State.Of.tick_cho_of_edge h hchoCap
    obtain ⟨hdlyL, hdlyBufL⟩ := hdly .left
    obtain ⟨hdlyR, hdlyBufR⟩ := hdly .right
    obtain ⟨hchoL, hchoBufL⟩ := hcho .left
    obtain ⟨hchoR, hchoBufR⟩ := hcho .right
    exact ⟨hdlyL, hdlyR, hchoL, hchoR, fun j h1 hj => ⟨hdlyBufL j h1 hj, hdlyBufR j h1 hj⟩,
      fun j h1 hj => ⟨hchoBufL j h1 hj, hchoBufR j h1 hj⟩⟩
  · rw [hedge] at h
    have hdly := State.Of.tick_dly_of_no_edge h
    have hcho := State.Of.tick_cho_of_no_edge h
    exact ⟨hdly .left, hdly .right, hcho .left, hcho .right⟩

end Sys2Proof.Machine

/-! What a block leaves: the ports (R116, R117) and the settings of the units (R582). -/

namespace Sys2Proof.Machine

/-! ## The ports -/

/-- From `s` to `t` the audio port has `n` frames more, and the other ports are as they were. -/
structure State.Of.Emits {N : Type} (s : State.Of N) (n : Nat) (t : State.Of N) : Prop where
  cmds : t.cmds = s.cmds
  responses : t.responses = s.responses
  audio : ∃ frames, frames.length = n ∧ t.audio = s.audio ++ frames

section
variable {N : Type} {cfg : Config.Parameters N} {s t u : State.Of N} {m n : Nat}

/-- No frame is emitted when the ports stay as they are. -/
theorem State.Of.Emits.none (hcmds : t.cmds = s.cmds) (hresponses : t.responses = s.responses)
    (haudio : t.audio = s.audio) : s.Emits 0 t := ⟨hcmds, hresponses, [], rfl, by simpa using haudio⟩

theorem State.Of.Emits.trans (h : s.Emits m t) (h' : t.Emits n u) : s.Emits (m + n) u := by
  obtain ⟨hcmds, hresponses, frames, hlength, haudio⟩ := h
  obtain ⟨hcmds', hresponses', frames', hlength', haudio'⟩ := h'
  exact ⟨hcmds'.trans hcmds, hresponses'.trans hresponses, frames ++ frames', by simp [hlength, hlength'],
    by rw [haudio', haudio, List.append_assoc]⟩

theorem State.Of.emits_noteOn (v : BitVec 7) : s.Emits 0 (s.noteOn cfg v) := by
  unfold State.Of.noteOn
  dsimp only
  split <;> exact .none (by simp) (by simp) (by simp)

theorem State.Of.emits_noteOff (v : BitVec 7) : s.Emits 0 (s.noteOff cfg v) := by
  unfold State.Of.noteOff
  split <;> exact .none rfl rfl rfl

variable [DecidableEq N]

theorem State.Of.emits_tick : s.Emits 1 (s.tick cfg) := by
  unfold State.Of.tick State.Of.tickSource
  refine ⟨by simp, by simp, ?_⟩
  simp only [emit_audio, tickEffects_audio, tickSilence_audio, engineAdvance_audio, tickSelect_audio, tickModulators_audio]
  exact ⟨[_], rfl, rfl⟩

/-- A block's frames are as many as its ticks (R496). -/
theorem State.Of.emits_runFrames (n : Nat) : s.Emits n (State.Of.runFrames cfg n s) := by
  induction n generalizing s with
  | zero => exact .none rfl rfl rfl
  | succ n ih =>
    have hframes : s.Emits (1 + n) (State.Of.runFrames cfg n (s.tick cfg)) := emits_tick.trans ih
    rw [Nat.add_comm] at hframes
    exact hframes

/-- Before its response an operation changes no port but the audio port (R116, R117). -/
theorem Effect.emits {i : Instr} (h : Effect cfg s i u) : ∃ n, s.Emits n u := by
  cases h with
  | e0 | e1 | e2 | e3 | e4 | e5 | e6 | e7 | e8 | e9 | e10 | e11 | adsr | ad | lfo | flt | dly | cho | rev | paramSet
  | paramSetOut | paramGet => exact ⟨0, .none rfl rfl rfl⟩
  | fullReset => exact ⟨0, .none (by simp) (by simp) (by simp)⟩
  | noteOn note => exact ⟨0, State.Of.emits_noteOn _⟩
  | noteOnVelocityZero note | noteOff note => exact ⟨0, State.Of.emits_noteOff _⟩
  | processBlock n =>
    obtain ⟨hcmds, hresponses, haudio⟩ := State.Of.emits_runFrames (cfg := cfg) (s := s.startBlock cfg) (countOf n)
    exact ⟨countOf n, by simpa using hcmds, by simpa using hresponses, by simpa using haudio⟩

end

/-! ## The step (R540) -/

/-- Every operation of the map completes (R540). -/
theorem exec_completes (i : Instr) (s : State) : ∃ t, exec i s = .next t := by
  cases i <;> exact ⟨_, rfl⟩

/-- An operation returns one response word (R116). -/
theorem exec_ports {i : Instr} {s t : State} (h : exec i s = .next t) : t.cmds = s.cmds ∧
    (∃ word, t.responses = s.responses ++ [word]) ∧ ∃ frames, t.audio = s.audio ++ frames := by
  obtain ⟨u, hi, lo, heffect, rfl⟩ := exec_effect h
  obtain ⟨n, hcmds, hresponses, frames, -, haudio⟩ := heffect.emits
  exact ⟨hcmds, ⟨wordPair hi lo, by rw [State.Of.respond_responses, hresponses]⟩, frames, haudio⟩

/-- Settles O7: a step idles, runs an operation, or answers a reserved word. The bound on the block's length is not
needed. -/
theorem everyStepCompletesWithOneResponse : Obligations.EveryStepCompletesWithOneResponse := by
  intro M s _
  cases hcmds : s.cmds with
  | nil => exact ⟨s, [], [], step_of_no_command hcmds, hcmds, by simp, rfl, by simp⟩
  | cons cw rest =>
    cases hdec : decode cw with
    | ok i =>
      obtain ⟨t, ht⟩ := exec_completes i { s with cmds := rest }
      obtain ⟨hrest, ⟨word, hresponses⟩, frames, haudio⟩ := exec_ports ht
      exact ⟨t, [word], frames, (step_of_decode_ok hcmds hdec).trans ht, hrest, hresponses, by simp, haudio⟩
    | error e =>
      exact ⟨_, [wordPair 0#32 0#32], [], step_of_decode_error hcmds hdec, rfl, rfl, by simp, (List.append_nil _).symm⟩

/-! ## The settings a block keeps (R582) -/

/-- From `s` to `t` every sample rate and every engine's level are as they were. -/
structure State.KeepsSettings (s t : State) : Prop where
  regs : ∀ k, (t.regs k).sr = (s.regs k).sr ∧ (t.regs k).level = (s.regs k).level
  adsr : t.adsr.sr = s.adsr.sr
  ad : t.ad.sr = s.ad.sr
  lfo : t.lfo.sr = s.lfo.sr
  flt : t.flt.sr = s.flt.sr

namespace State.KeepsSettings
variable {cfg : Config.Parameters NUM} {s t u : State}

theorem refl (s : State) : s.KeepsSettings s := ⟨fun _ => ⟨rfl, rfl⟩, rfl, rfl, rfl, rfl⟩

theorem trans (h : s.KeepsSettings t) (h' : t.KeepsSettings u) : s.KeepsSettings u where
  regs k := ⟨(h'.regs k).1.trans (h.regs k).1, (h'.regs k).2.trans (h.regs k).2⟩
  adsr := h'.adsr.trans h.adsr
  ad := h'.ad.trans h.ad
  lfo := h'.lfo.trans h.lfo
  flt := h'.flt.trans h.flt

theorem startBlock : s.KeepsSettings (s.startBlock cfg) := ⟨fun k => by cases k <;> exact ⟨rfl, rfl⟩, rfl, rfl, rfl, rfl⟩

theorem tickModulators : s.KeepsSettings (s.tickModulators cfg) :=
  ⟨fun k => by cases k <;> exact ⟨rfl, rfl⟩, by simp, by simp, by simp, by simp⟩

theorem selectEngine (k : Engine) : s.KeepsSettings (s.selectEngine cfg k) where
  regs j := by cases k <;> cases j <;> exact ⟨rfl, rfl⟩
  adsr := by simp [State.selectEngine]
  ad := by simp [State.selectEngine]
  lfo := by simp [State.selectEngine]
  flt := by simp [State.selectEngine]

theorem engineAdvance (k : Engine) : s.KeepsSettings (s.engineAdvance cfg k) where
  regs j := by cases k <;> cases j <;> exact ⟨rfl, rfl⟩
  adsr := by simp
  ad := by simp
  lfo := by simp
  flt := by simp

theorem tickSilence (env : NUM) : s.KeepsSettings (s.tickSilence cfg env) where
  regs k := by cases k <;> simp [State.Of.regs]
  adsr := by simp
  ad := by simp
  lfo := by simp
  flt := by simp

theorem tickEffects (x : Stereo NUM) : s.KeepsSettings (s.tickEffects cfg x) where
  regs k := by cases k <;> exact ⟨rfl, rfl⟩
  adsr := rfl
  ad := rfl
  lfo := rfl
  flt := rfl

theorem emit (y : Stereo NUM) : s.KeepsSettings (s.emit y cfg) :=
  ⟨fun k => by cases k <;> exact ⟨rfl, rfl⟩, rfl, rfl, rfl, rfl⟩

/-- The parts of a tick in order; a change of the engine resets nothing. -/
theorem tick : s.KeepsSettings (s.tick Config.reference) := by
  have source : s.KeepsSettings (s.tickSource Config.reference) := by
    unfold State.Of.tickSource
    rw [State.tickSelect_reference]
    exact (tickModulators.trans (selectEngine _)).trans (engineAdvance _)
  exact ((source.trans (tickSilence _)).trans (tickEffects _)).trans (emit _)

theorem runFrames (n : Nat) : s.KeepsSettings (State.Of.runFrames Config.reference n s) := by
  induction n generalizing s with
  | zero => exact refl s
  | succ n ih => exact tick.trans ih

end State.KeepsSettings

/-- Settles O51: the block's ticks emit one frame each, keep the settings, and write no other field of PIPE than the AD
level, the last selected engine and the silence flag. The bound on the block's length is not needed. -/
theorem blockEmitsExactlyItsFrames : Obligations.BlockEmitsExactlyItsFrames := by
  intro M n s _
  let cfg := Config.reference
  obtain ⟨hcmds, hresponses, frames, hlength, haudio⟩ :=
    State.Of.emits_runFrames (cfg := cfg) (s := s.startBlock cfg) (countOf n)
  have hkept : s.KeepsSettings (State.Of.runFrames cfg (countOf n) (s.startBlock cfg)) :=
    State.KeepsSettings.startBlock.trans (.runFrames _)
  obtain ⟨level, code, silent, hpipe⟩ := State.Of.processBlock_pipe cfg s (countOf n)
  refine ⟨(State.Of.runFrames cfg (countOf n) (s.startBlock cfg)).respond 0#32 0#32, frames, rfl, hlength, haudio,
    congrArg (· ++ [0#64]) hresponses, hcmds, ?_, ?_, ?_, ?_, ?_, hkept.regs, hkept.adsr, hkept.ad, hkept.lfo, hkept.flt⟩
  all_goals rw [State.Of.respond_pipe, hpipe]

end Sys2Proof.Machine

/-! Two blocks in a row are one (R499): no part of a tick reads the responses, and a tick leaves the units programmed from
the latch, so that the second block's latching and programming change nothing. -/

namespace Sys2Proof.Machine

/-! ## The responses do not matter -/

/-- The state with other response words returned. -/
def State.Of.withResponses {N : Type} (s : State.Of N) (r : List ResponseWord) : State.Of N := { s with responses := r }

section
variable (cfg : Config.Parameters NUM) (s : State) (r : List ResponseWord)

theorem State.respond_eq_withResponses (hi lo : BitVec 32) :
    s.respond hi lo = s.withResponses (s.responses ++ [wordPair hi lo]) := rfl

theorem State.startBlock_withResponses : (s.withResponses r).startBlock cfg = (s.startBlock cfg).withResponses r := rfl

theorem State.resetEngine_withResponses (k : Engine) :
    (s.withResponses r).resetEngine cfg k = (s.resetEngine cfg k).withResponses r := by
  cases k <;> rfl

theorem State.selectEngine_withResponses (k : Engine) :
    State.selectEngine cfg (s.withResponses r) k = (s.selectEngine cfg k).withResponses r := by
  cases k <;> rfl

theorem State.engineAdvance_withResponses (k : Engine) :
    (s.withResponses r).engineAdvance cfg k = (s.engineAdvance cfg k).withResponses r := by
  cases k <;> rfl

theorem State.engineOut_withResponses (k : Engine) : (s.withResponses r).engineOut cfg k = s.engineOut cfg k := by
  cases k <;> rfl

theorem State.tickSelect_withResponses : (s.withResponses r).tickSelect cfg = (s.tickSelect cfg).withResponses r := by
  have hpipe : (s.withResponses r).pipe = s.pipe := rfl
  rw [tickSelect_eq, tickSelect_eq, hpipe, resetEngine_withResponses]
  split <;> exact selectEngine_withResponses cfg _ r _

/-- The state of the tick when the selected engine is called. -/
theorem State.tickSelect_tickModulators_withResponses : ((s.withResponses r).tickModulators cfg).tickSelect cfg =
    ((s.tickModulators cfg).tickSelect cfg).withResponses r :=
  tickSelect_withResponses cfg (s.tickModulators cfg) r

theorem State.tickSilence_withResponses (env : NUM) :
    (s.withResponses r).tickSilence cfg env = (s.tickSilence cfg env).withResponses r := by
  rw [State.Of.tickSilence_eq, State.Of.tickSilence_eq]
  rfl

theorem State.tickEffects_withResponses (x : Stereo NUM) :
    (s.withResponses r).tickEffects cfg x = (s.tickEffects cfg x).withResponses r := rfl

theorem State.afterReverb_withResponses (x : Stereo NUM) :
    (s.withResponses r).afterReverb cfg x = s.afterReverb cfg x := rfl

theorem State.emit_withResponses (y : Stereo NUM) : (s.withResponses r).emit y cfg = (s.emit y cfg).withResponses r := rfl

theorem State.tick_withResponses : (s.withResponses r).tick cfg = (s.tick cfg).withResponses r := by
  have hsource : (s.withResponses r).tickSource cfg = (s.tickSource cfg).withResponses r := by
    unfold State.Of.tickSource
    rw [tickSelect_tickModulators_withResponses]
    exact engineAdvance_withResponses cfg _ r _
  have hscaled : (s.withResponses r).tickScaled cfg = s.tickScaled cfg := by
    unfold State.Of.tickScaled
    simp only [tickSelect_tickModulators_withResponses, engineOut_withResponses]
    rfl
  have hadsr : (s.withResponses r).adsr = s.adsr := rfl
  simp only [State.Of.tick, hsource, hscaled, hadsr, tickSilence_withResponses, tickEffects_withResponses,
    afterReverb_withResponses, emit_withResponses]

theorem State.runFrames_withResponses (n : Nat) :
    State.Of.runFrames cfg n (s.withResponses r) = (State.Of.runFrames cfg n s).withResponses r := by
  induction n generalizing s with
  | zero => rfl
  | succ n ih =>
    simp only [State.Of.runFrames]
    rw [tick_withResponses, ih]

end

/-! ## The units programmed from the latch (R491) -/

section
variable {N : Type} (cfg : Config.Parameters N) (pl : Latch N)

/-- The four setters of a block on ADSR. -/
def Adsr.program (u : Adsr N) : Adsr N :=
  (((u.setAttack cfg pl.attack).setDecay cfg pl.decay).setSustain cfg pl.sustain).setRelease cfg pl.release

/-- The two setters of a block on AD. -/
def Ad.program (u : Ad N) : Ad N := (u.setAttack cfg pl.attack).setDecay cfg pl.decay

/-- The three setters of a block on LFO. -/
def Lfo.program (u : Lfo N) : Lfo N :=
  ((u.setFreq cfg pl.lfoFreq).setWave cfg (cfg.ofNat pl.lfoWave.code)).setVar cfg pl.lfoVar

/-- The three setters of a block on FLT. -/
def Ladder.program (u : Ladder N) : Ladder N :=
  ((u.setCutoff cfg pl.cutoff).setRes cfg pl.resonance).setWet cfg pl.wet

/-- PIPE is latched, and what a block programs into the units is in them. -/
structure State.Of.Programmed (s : State.Of N) : Prop where
  latch : latchOf cfg s.pipe.p = s.pipe.pl
  adsr : s.adsr.program cfg s.pipe.pl = s.adsr
  ad : s.ad.program cfg s.pipe.pl = s.ad
  lfo : s.lfo.program cfg s.pipe.pl = s.lfo
  flt : s.flt.program cfg s.pipe.pl = s.flt
  dly : s.dly.setAmount cfg s.pipe.pl.delay = s.dly
  cho : s.cho.setAmount cfg s.pipe.pl.chorus = s.cho
  rev : s.rev.setAmount cfg s.pipe.pl.reverb = s.rev

variable {cfg pl} {s : State.Of N}

theorem State.Of.programmed_startBlock : (s.startBlock cfg).Programmed cfg := ⟨rfl, rfl, rfl, rfl, rfl, rfl, rfl, rfl⟩

theorem State.Of.startBlock_of_programmed (h : s.Programmed cfg) : s.startBlock cfg = s := by
  obtain ⟨hlatch, hadsr, had, hlfo, hflt, hdly, hcho, hrev⟩ := h
  have hstart : s.startBlock cfg = { s with
      pipe := { s.pipe with pl := latchOf cfg s.pipe.p }
      adsr := s.adsr.program cfg (latchOf cfg s.pipe.p)
      ad := s.ad.program cfg (latchOf cfg s.pipe.p)
      lfo := s.lfo.program cfg (latchOf cfg s.pipe.p)
      flt := s.flt.program cfg (latchOf cfg s.pipe.p)
      dly := s.dly.setAmount cfg (latchOf cfg s.pipe.p).delay
      cho := s.cho.setAmount cfg (latchOf cfg s.pipe.p).chorus
      rev := s.rev.setAmount cfg (latchOf cfg s.pipe.p).reverb } := rfl
  rw [hstart, hlatch, hadsr, had, hlfo, hflt, hdly, hcho, hrev]

/-! ### A unit's processing writes no programmed field -/

theorem Adsr.program_process {u : Adsr N} (h : u.program cfg pl = u) :
    (u.process cfg).program cfg pl = u.process cfg := by
  obtain ⟨st, level, hproc⟩ : ∃ st level, u.process cfg = { u with st := st, level := level } := by
    unfold Adsr.process
    rw [Adsr.advance_eq]
    exact ⟨_, _, rfl⟩
  rw [hproc]
  exact congrArg (fun v : Adsr N => { v with st := st, level := level }) h

theorem Ad.program_process {u : Ad N} (h : u.program cfg pl = u) : (u.process cfg).program cfg pl = u.process cfg := by
  obtain ⟨st, level, hproc⟩ : ∃ st level, u.process cfg = { u with st := st, level := level } := by
    unfold Ad.process
    rw [Ad.advance_eq]
    exact ⟨_, _, rfl⟩
  rw [hproc]
  exact congrArg (fun v : Ad N => { v with st := st, level := level }) h

theorem Lfo.program_process {u : Lfo N} (h : u.program cfg pl = u) : (u.process cfg).program cfg pl = u.process cfg := by
  obtain ⟨ph, rnd, seed, hproc⟩ : ∃ ph rnd seed, u.process cfg = { u with ph := ph, rnd := rnd, seed := seed } := by
    unfold Lfo.process
    dsimp only
    split <;> exact ⟨_, _, _, rfl⟩
  rw [hproc]
  exact congrArg (fun v : Lfo N => { v with ph := ph, rnd := rnd, seed := seed }) h

theorem Ladder.program_bothNext {u : Ladder N} (h : u.program cfg pl = u) (x : Stereo N) :
    (bothNext (Ladder.process cfg) u x).program cfg pl = bothNext (Ladder.process cfg) u x :=
  congrArg (fun v : Ladder N => { v with s := (bothNext (Ladder.process cfg) u x).s }) h

theorem Delay.setAmount_reset {a : N} {u : Delay N} (h : u.setAmount cfg a = u) :
    (u.reset cfg).setAmount cfg a = u.reset cfg :=
  congrArg (fun v : Delay N => v.reset cfg) h

theorem Chorus.setAmount_reset {a : N} {u : Chorus N} (h : u.setAmount cfg a = u) :
    (u.reset cfg).setAmount cfg a = u.reset cfg :=
  congrArg (fun v : Chorus N => v.reset cfg) h

variable [DecidableEq N]

theorem Delay.setAmount_bothNext {a : N} {u : Delay N} (h : u.setAmount cfg a = u) (x : Stereo N) :
    (bothNext (Delay.process cfg) u x).setAmount cfg a = bothNext (Delay.process cfg) u x :=
  congrArg (fun v : Delay N => { v with ch := (bothNext (Delay.process cfg) u x).ch }) h

theorem Chorus.setAmount_bothNext {a : N} {u : Chorus N} (h : u.setAmount cfg a = u) (x : Stereo N) :
    (bothNext (Chorus.process cfg) u x).setAmount cfg a = bothNext (Chorus.process cfg) u x :=
  congrArg (fun v : Chorus N => { v with ch := (bothNext (Chorus.process cfg) u x).ch }) h

theorem Reverb.setAmount_bothNext {a : N} {u : Reverb N} (h : u.setAmount cfg a = u) (x : Stereo N) :
    (bothNext (Reverb.process cfg) u x).setAmount cfg a = bothNext (Reverb.process cfg) u x :=
  congrArg (fun v : Reverb N => { v with ch := (bothNext (Reverb.process cfg) u x).ch }) h

/-- A tick leaves the units programmed. -/
theorem State.Of.Programmed.tick (h : s.Programmed cfg) : (s.tick cfg).Programmed cfg := by
  obtain ⟨level, code, silent, hpipe⟩ := s.tick_pipe cfg
  obtain ⟨xd, hdly⟩ := s.tick_dly cfg
  obtain ⟨xc, hcho⟩ := s.tick_cho cfg
  constructor <;> rw [hpipe]
  case latch => exact h.latch
  case adsr =>
    simp only [State.Of.tick, State.Of.tickSource, emit_adsr, tickEffects_adsr, tickSilence_adsr, engineAdvance_adsr,
      tickSelect_adsr, tickModulators_adsr]
    exact Adsr.program_process h.adsr
  case ad =>
    simp only [State.Of.tick, State.Of.tickSource, emit_ad, tickEffects_ad, tickSilence_ad, engineAdvance_ad,
      tickSelect_ad, tickModulators_ad]
    exact Ad.program_process h.ad
  case lfo =>
    simp only [State.Of.tick, State.Of.tickSource, emit_lfo, tickEffects_lfo, tickSilence_lfo, engineAdvance_lfo,
      tickSelect_lfo, tickModulators_lfo]
    exact Lfo.program_process h.lfo
  case flt =>
    simp only [State.Of.tick, State.Of.tickSource, emit_flt, tickEffects_flt, tickSilence_flt, engineAdvance_flt,
      tickSelect_flt, tickModulators_flt]
    exact Ladder.program_bothNext h.flt _
  case dly =>
    rw [hdly]
    refine Delay.setAmount_bothNext ?_ xd
    split
    · exact Delay.setAmount_reset h.dly
    · exact h.dly
  case cho =>
    rw [hcho]
    refine Chorus.setAmount_bothNext ?_ xc
    split
    · exact Chorus.setAmount_reset h.cho
    · exact h.cho
  case rev =>
    simp only [State.Of.tick, State.Of.tickSource, emit_rev, tickEffects_rev, tickSilence_rev, engineAdvance_rev,
      tickSelect_rev, tickModulators_rev]
    exact Reverb.setAmount_bothNext h.rev _

theorem State.Of.Programmed.runFrames (h : s.Programmed cfg) (n : Nat) : (State.Of.runFrames cfg n s).Programmed cfg := by
  induction n generalizing s with
  | zero => exact h
  | succ n ih => exact ih h.tick

end

/-- Settles O53: the second block starts on programmed units, so its frames run on from the first block's. The bound on the
block's length is not needed. -/
theorem blockBoundariesAreInvisible : Obligations.BlockBoundariesAreInvisible := by
  intro M a b s hsum _
  let cfg := Config.reference
  let first := State.Of.runFrames cfg (countOf a) (s.startBlock cfg)
  let both := State.Of.runFrames cfg (countOf b) first
  have hprogrammed : first.startBlock cfg = first :=
    State.Of.startBlock_of_programmed (State.Of.programmed_startBlock.runFrames _)
  have hcount : countOf (a + b) = countOf a + countOf b := (BitVec.toNat_add a b).trans (Nat.mod_eq_of_lt hsum)
  have hjoined : State.Of.runFrames cfg (countOf (a + b)) (s.startBlock cfg) = both := by
    rw [hcount, runFrames_add]
  have hresponses : first.responses = s.responses :=
    (State.Of.emits_runFrames (cfg := cfg) (s := s.startBlock cfg) (countOf a)).responses
  have hsecond : exec (.pipeProcessBlock b) (first.respond 0#32 0#32) =
      .next (both.withResponses (s.responses ++ [0#64] ++ [0#64])) := by
    refine done_eq_next.2 ?_
    rw [State.respond_eq_withResponses first, State.startBlock_withResponses, hprogrammed, State.runFrames_withResponses,
      hresponses]
    rfl
  refine ⟨_, _, both.respond 0#32 0#32, rfl, hsecond, done_eq_next.2 ?_, ?_⟩
  · rw [hjoined]
  · rw [List.append_assoc]
    rfl

end Sys2Proof.Machine

/-! The values after power-on (R571), the example command words of the test vectors, and the kept properties at power-on. -/

namespace Sys2Proof.Machine

/-! ## The example command words -/

/-- A word that an operation encodes to decodes to the operation (R113). -/
theorem decode_of_encode_eq {cw : CommandWord} {i : Instr} (hwf : i.wellFormed = true) (h : encode i = cw) :
    decode cw = .ok i := h ▸ decodeOfEncodeIsIdentity i hwf

/-- Settles O4: each of the thirteen operations encodes to its word; the last two words have no row. -/
theorem specExampleWordsDecode : Obligations.SpecExampleWordsDecode :=
  ⟨decode_of_encode_eq rfl rfl, decode_of_encode_eq rfl rfl, decode_of_encode_eq rfl rfl, decode_of_encode_eq rfl rfl,
    decode_of_encode_eq rfl rfl, decode_of_encode_eq rfl rfl, decode_of_encode_eq rfl rfl, decode_of_encode_eq rfl rfl,
    decode_of_encode_eq rfl rfl, decode_of_encode_eq rfl rfl, decode_of_encode_eq rfl rfl, decode_of_encode_eq rfl rfl,
    decode_of_encode_eq rfl rfl, rfl, rfl⟩

/-! ## The values after power-on -/

/-- Of the engines' control fields the level and the sample rate are not zero after power-on, and the seed, which the
resets of E4 and E8 advance (R571). -/
theorem regs_reset (k : Engine) : State.reset.regs k =
    { EngineRegs.powerOn Config.reference k.index with seed := (State.reset.regs k).seed } := by
  cases k <;> rfl

/-- Only the resets of E4 and E8 draw (R231, R251). -/
theorem seed_reset_of_no_draw {k : Engine} (h4 : k ≠ .supersaw) (h8 : k ≠ .additive) :
    (State.reset.regs k).seed = Config.reference.engineSeed k.index := by
  cases k with
  | supersaw => exact absurd rfl h4
  | additive => exact absurd rfl h8
  | _ => rfl

/-- The seeds of E4 and E8 after their 9 and 32 draws. -/
theorem seeds_after_draws : State.reset.e4.regs.seed = 0xCC135D9B#32 ∧ State.reset.e8.regs.seed = 0x50C980A8#32 := by
  decide +kernel

/-- E4 is at power-on as after its reset, which draws from the seed of power-on. -/
theorem e4_reset_eq : State.reset.e4 =
    SupersawBank.reset Config.reference { State.reset.e4 with regs := EngineRegs.powerOn Config.reference 4 } := rfl

/-- So is E8. -/
theorem e8_reset_eq : State.reset.e8 =
    AdditiveBank.reset Config.reference { State.reset.e8 with regs := EngineRegs.powerOn Config.reference 8 } := rfl

/-- Settles O56: the drawn banks are those of the drawing resets; every other field is written as it stands. -/
theorem powerOnValues : Obligations.PowerOnValues := by
  refine ⟨fun k => ?_, rfl, rfl, rfl, rfl, fun k => seed_reset_of_no_draw, seeds_after_draws.1, seeds_after_draws.2,
    fun i hi => ?_, fun j hj => ⟨?_, ?_⟩, rfl, rfl, rfl, rfl, rfl, rfl, rfl, rfl, rfl, rfl, rfl, rfl⟩
  · rw [regs_reset]
    exact ⟨rfl, rfl, rfl, rfl⟩
  · rw [e4_reset_eq]
    exact SupersawBank.bankGet_reset_ph _ hi
  · rw [e8_reset_eq]
    exact AdditiveBank.bankGet_reset_det _ hj
  · rw [e8_reset_eq]
    exact AdditiveBank.bankGet_reset_ph _ hj

/-! ## The kept properties at power-on -/

/-- At power-on the counters and cursors are 0 and the lines cleared, as after a reset (R49, R50, R55 to R57, R571). -/
theorem powerOn_wellShaped {N : Type} [DecidableEq N] {cfg : Config.Parameters N} (hcfg : cfg.Admissible) :
    (State.Of.powerOn cfg).wellShaped cfg = true := by
  refine State.Of.wellShaped_iff.2 ⟨?e10, rfl, ?e11, ?dly, ?cho, ?rev, ?pipe⟩
  case e10 => exact PluckedString.reset_wellShaped hcfg (State.Of.powerOn cfg).e10
  case e11 => exact PwmOsc.reset_wellShaped hcfg (State.Of.powerOn cfg).e11
  case dly => exact Chan.forall_iff.2 ⟨DelayChannel.clear_wellShaped hcfg, DelayChannel.clear_wellShaped hcfg⟩
  case cho => exact Chan.forall_iff.2 ⟨ChorusChannel.clear_wellShaped hcfg, ChorusChannel.clear_wellShaped hcfg⟩
  case rev => exact Chan.forall_iff.2 ⟨ReverbChannel.clear_wellShaped hcfg _, ReverbChannel.clear_wellShaped hcfg _⟩
  case pipe => exact Pipe.wellShaped_iff.2 ⟨.inr rfl, nofun, nofun⟩

/-- No word of the one state after power-on is a denormal, its drawn phases and detunes included. -/
theorem reset_flushed : State.reset.flushed = true := by decide +kernel

theorem reset_legal : State.reset.legal = true := by decide +kernel

theorem reset_tuned : State.reset.tuned = true := by decide +kernel

/-- Settles O57: the shape in the reference configuration is the last clause taken there; the other three properties are
evaluated on the state. -/
theorem invariantsHoldAtPowerOn : Obligations.InvariantsHoldAtPowerOn :=
  ⟨powerOn_wellShaped Config.reference_admissible, reset_flushed, reset_legal, reset_tuned,
    fun _ _ _ hcfg => powerOn_wellShaped hcfg⟩

end Sys2Proof.Machine
